-- ==== Sys2Proof/Word.lean ====
section
/-! DEFINITION. The word types of the pep CORE block: 32-bit registers and command words, 8-bit stream
bytes (`00_scope.md` R7, R13). Arithmetic on both is core `BitVec` arithmetic, which wraps modulo `2^W`
as `00_scope.md` R14 asks; exact (unbounded) quantities are plain `Nat`. -/

namespace Sys2Proof

/-- A 32-bit register, result word, count or command word. -/
abbrev Word := BitVec 32

/-- One byte of the input stream, of the output stream, or of the packer. -/
abbrev Byte := BitVec 8

end Sys2Proof
end

