-- ==== Sys2Proof/Syntax.lean ====
section
/-! DEFINITION. The command set as syntax: one constructor per row of `spec/opcode_table.json`
(`30_encoding.md` R94), each with the operand fields its format gives it (R91, R92). -/

namespace Sys2Proof

/-- The 23 commands. A field is as wide as its encoding field; which values are legal is `Instr.wf`. -/
inductive Instr where
  /-- R120. -/
  | nop
  /-- R121. -/
  | halt
  /-- R122; format H. -/
  | ldl (u16 : BitVec 16)
  /-- R123; format H. -/
  | ldh (u16 : BitVec 16)
  /-- R124; format B, the operand is PALSZ. -/
  | cfg (u8 : BitVec 8)
  /-- R125; format R. -/
  | rdreg (reg : BitVec 5)
  /-- R126; format F: `S` asks for the sum, `O` for the order-0 table, `i` is the symbol, `c` the table. -/
  | rdfreq (S O : Bool) (i : BitVec 9) (c : BitVec 8)
  /-- R127. -/
  | seek
  /-- R128. -/
  | limit
  /-- R176. -/
  | encInit
  /-- R177. -/
  | encFlush
  /-- R178; format H, the operand is the scale. -/
  | acEnc (u16 : BitVec 16)
  /-- R230; format B, the operand is the symbol. -/
  | ppmEnc (u8 : BitVec 8)
  /-- R263; format B, the operand is the palette index. -/
  | pixEnc (u8 : BitVec 8)
  /-- R264. -/
  | pixFlush
  /-- R180. -/
  | decInit
  /-- R181. -/
  | decEnd
  /-- R183; format H, the operand is the scale. -/
  | acDfreq (u16 : BitVec 16)
  /-- R184. -/
  | acDupd
  /-- R231. -/
  | ppmDec
  /-- R265. -/
  | pixDec
  /-- R150. -/
  | varEnc
  /-- R152. -/
  | varDec
  deriving DecidableEq, Repr

end Sys2Proof
end

