-- ==== Sys2Proof/WellFormed.lean ====
section
/-! DEFINITION. Which commands are legal as syntax: the operand constraints of `30_encoding.md` R93.
Every other field of every format may hold any value. -/

namespace Sys2Proof

/-- R93: in format R, `reg` must be 0..20. -/
def regLegal (reg : BitVec 5) : Bool := reg.toNat ≤ 20

/-- R93: in format F, `i` must be 0..256, `c` must be 0 when `O = 1`, `i` must be 0 when `S = 1`. -/
def freqSelLegal (S O : Bool) (i : BitVec 9) (c : BitVec 8) : Bool :=
  i.toNat ≤ 256 && (!O || c == 0) && (!S || i == 0)

/-- A command whose fields are in their legal sets (R93). -/
def Instr.wf : Instr → Bool
  | .rdreg reg => regLegal reg
  | .rdfreq S O i c => freqSelLegal S O i c
  | .nop | .halt | .ldl _ | .ldh _ | .cfg _ | .seek | .limit | .encInit | .encFlush | .acEnc _
  | .ppmEnc _ | .pixEnc _ | .pixFlush | .decInit | .decEnd | .acDfreq _ | .acDupd | .ppmDec
  | .pixDec | .varEnc | .varDec => true

end Sys2Proof
end

