-- ==== Sys2Proof/Decode.lean ====
section
/-! DEFINITION. Command words to commands and back, from the formats and the opcode map of
`30_encoding.md` R90 to R97. The decoder is total and rejects by name; every rejection of a 32-bit word is
the E_ILLEGAL of R95 and R96. The encoder stands after it and is written from the same tables. -/

namespace Sys2Proof

/-- Why a word is not a command. -/
inductive DecodeError where
  /-- R95: an opcode value not in R94. -/
  | undefinedOpcode
  /-- R96: a bit its format marks 0 is 1. -/
  | reservedBit
  /-- R96: a field outside the legal set of R93. -/
  | badField
  /-- Fewer than the four bytes of a command word were given (R69, R90); never arises for a whole word. -/
  | truncated
  deriving DecidableEq, Repr

/-- `op = w[31:24]` (R90). -/
def opField (w : Word) : BitVec 8 := w.extractLsb' 24 8

/-- `imm = w[23:0]` (R90). -/
def immField (w : Word) : BitVec 24 := w.extractLsb' 0 24

/-- Format Z (R91): every immediate bit is 0. -/
def formatZ (w : Word) (i : Instr) : Except DecodeError Instr :=
  if (immField w).toNat = 0 then .ok i else .error .reservedBit

/-- Format B (R91): bits 23..8 are 0, `u8 = imm[7:0]`. -/
def formatB (w : Word) (mk : BitVec 8 → Instr) : Except DecodeError Instr :=
  if ((immField w).extractLsb' 8 16).toNat = 0 then .ok (mk ((immField w).extractLsb' 0 8))
  else .error .reservedBit

/-- Format H (R91): bits 23..16 are 0, `u16 = imm[15:0]`. -/
def formatH (w : Word) (mk : BitVec 16 → Instr) : Except DecodeError Instr :=
  if ((immField w).extractLsb' 16 8).toNat = 0 then .ok (mk ((immField w).extractLsb' 0 16))
  else .error .reservedBit

/-- Format R (R91, R93): bits 23..5 are 0, `reg = imm[4:0]` is 0..20. -/
def formatR (w : Word) (mk : BitVec 5 → Instr) : Except DecodeError Instr :=
  if ((immField w).extractLsb' 5 19).toNat = 0 then
    if regLegal ((immField w).extractLsb' 0 5) then .ok (mk ((immField w).extractLsb' 0 5))
    else .error .badField
  else .error .reservedBit

/-- Format F (R91, R93): bits 23..19 are 0, `S = imm[18]`, `O = imm[17]`, `i = imm[16:8]`, `c = imm[7:0]`. -/
def formatF (w : Word) (mk : Bool → Bool → BitVec 9 → BitVec 8 → Instr) : Except DecodeError Instr :=
  let S := (immField w).getLsbD 18
  let O := (immField w).getLsbD 17
  let i := (immField w).extractLsb' 8 9
  let c := (immField w).extractLsb' 0 8
  if ((immField w).extractLsb' 19 5).toNat = 0 then
    if freqSelLegal S O i c then .ok (mk S O i c) else .error .badField
  else .error .reservedBit

/-- The decoder: the row of R94 selected by `op`, read in the row's format (R97). -/
def decode (w : Word) : Except DecodeError Instr :=
  match (opField w).toNat with
  | 0x00 => formatZ w .nop
  | 0x01 => formatZ w .halt
  | 0x02 => formatH w .ldl
  | 0x03 => formatH w .ldh
  | 0x04 => formatB w .cfg
  | 0x05 => formatR w .rdreg
  | 0x06 => formatF w .rdfreq
  | 0x07 => formatZ w .seek
  | 0x08 => formatZ w .limit
  | 0x10 => formatZ w .encInit
  | 0x11 => formatZ w .encFlush
  | 0x12 => formatH w .acEnc
  | 0x13 => formatB w .ppmEnc
  | 0x14 => formatB w .pixEnc
  | 0x15 => formatZ w .pixFlush
  | 0x18 => formatZ w .decInit
  | 0x19 => formatZ w .decEnd
  | 0x1A => formatH w .acDfreq
  | 0x1B => formatZ w .acDupd
  | 0x1C => formatZ w .ppmDec
  | 0x1D => formatZ w .pixDec
  | 0x20 => formatZ w .varEnc
  | 0x21 => formatZ w .varDec
  | _ => .error .undefinedOpcode

/-- A command word written as four bytes, most significant byte first (R69). -/
def wordOfBytes (b3 b2 b1 b0 : Byte) : Word := b3 ++ b2 ++ b1 ++ b0

/-- The decoder on bytes: four bytes make a word (R69), the rest is handed back. -/
def decodeBytes : List Byte → Except DecodeError (Instr × List Byte)
  | b3 :: b2 :: b1 :: b0 :: rest => (decode (wordOfBytes b3 b2 b1 b0)).map fun i => (i, rest)
  | _ => .error .truncated

/-! ### The encoder -/

/-- The opcode of a command (R94). -/
def opcode : Instr → BitVec 8
  | .nop => 0x00
  | .halt => 0x01
  | .ldl _ => 0x02
  | .ldh _ => 0x03
  | .cfg _ => 0x04
  | .rdreg _ => 0x05
  | .rdfreq .. => 0x06
  | .seek => 0x07
  | .limit => 0x08
  | .encInit => 0x10
  | .encFlush => 0x11
  | .acEnc _ => 0x12
  | .ppmEnc _ => 0x13
  | .pixEnc _ => 0x14
  | .pixFlush => 0x15
  | .decInit => 0x18
  | .decEnd => 0x19
  | .acDfreq _ => 0x1A
  | .acDupd => 0x1B
  | .ppmDec => 0x1C
  | .pixDec => 0x1D
  | .varEnc => 0x20
  | .varDec => 0x21

/-- The immediate field of a command, its fields at the places R91 gives them and 0 elsewhere. -/
def immediate : Instr → BitVec 24
  | .ldl u16 | .ldh u16 | .acEnc u16 | .acDfreq u16 => 0#8 ++ u16
  | .cfg u8 | .ppmEnc u8 | .pixEnc u8 => 0#16 ++ u8
  | .rdreg reg => 0#19 ++ reg
  | .rdfreq S O i c => 0#5 ++ BitVec.ofBool S ++ BitVec.ofBool O ++ i ++ c
  | .nop | .halt | .seek | .limit | .encInit | .encFlush | .pixFlush | .decInit | .decEnd | .acDupd
  | .ppmDec | .pixDec | .varEnc | .varDec => 0

/-- The word of a command (R90): the opcode above the immediate. -/
def encode (i : Instr) : Word := opcode i ++ immediate i

/-- The word of a command as four bytes, most significant byte first (R69). -/
def encodeBytes (i : Instr) : List Byte :=
  [(encode i).extractLsb' 24 8, (encode i).extractLsb' 16 8, (encode i).extractLsb' 8 8,
    (encode i).extractLsb' 0 8]

/-- The host's view of the decoder: the command whose `nbits` bits are `w`, bit 0 the least significant
bit of the one 32-bit word (a longer word is no command, R90). The word is laid out as four bytes and given to `decodeBytes`. -/
def decodeTableWord (nbits w : Nat) : Option Instr :=
  if 2 ^ 32 ≤ w % 2 ^ nbits then none
  else
    let v := BitVec.ofNat 32 (w % 2 ^ nbits)
    match decodeBytes [v.extractLsb' 24 8, v.extractLsb' 16 8, v.extractLsb' 8 8, v.extractLsb' 0 8] with
    | .ok (i, _) => some i
    | .error _ => none

end Sys2Proof
end

