-- ==== Sys2Proof/Config.lean ====
section
/-! DEFINITION. The constants of `00_scope.md` R6 and R9, the identification constant of R2, the length
bound of R12, and the ONE free value of the model (what a register-window read returns while it is
unspecified, `20_memory.md` R70).
The other parameters of R12 (`OUT_FIFO_DEPTH`, `RES_FIFO_DEPTH`, `RESET_CYCLES`) and of
`92_eei_decisions.md` (`REG_BASE`, `START_CONTROL`) change no value any rule computes and have no
definition here. -/

namespace Sys2Proof.Config

/-- `CODE_BITS` (R6): the shift that brings LOW's top byte down. -/
abbrev codeBits : Nat := 24

/-- `CODE_BITS_INV` (R6): the byte width of one renormalisation shift. -/
abbrev codeBitsInv : Nat := 8

/-- `FREQ_MAX_BITS` (R6): `log2(PROB_MAX)`; not the adaptive threshold FREQMAX. -/
abbrev freqMaxBits : Nat := 14

/-- `PROB_MAX = 2^14` (R6). -/
abbrev probMax : Nat := 2 ^ freqMaxBits

/-- `CODE_MAX = 2^24 − 1` (R6). -/
abbrev codeMax : Nat := 2 ^ codeBits - 1

/-- The starting value of FREQMAX (R9). -/
abbrev freqMaxStart : Word := 128

/-- The ID register (R2, `10_state.md` R21). -/
abbrev idWord : Word := 0x50455007

/-- The largest legal `N` and `IN_LEN` (R12). -/
abbrev maxLength : Nat := 2 ^ 32 - 1

/-- FREE VALUE. What the `k`-th unspecified read of the register window returns (`20_memory.md` R70: "any
32 bits"; `93_implementation_defined.md` S1 and S2). No body: nothing can be proved of its value.
Log entry 3. -/
opaque windowDraw : Nat → Word

end Sys2Proof.Config
end

