-- ==== Sys2Proof/Machine/State.lean ====
section
/-! DEFINITION. The state of the block (`10_state.md` R20 to R40) as plain data, the launch parameters CMD and
IN (`00_scope.md` R12), the host as the second agent (`00_scope.md` R18), the reasons a step can stop, and
the state after reset (R40). -/

namespace Sys2Proof.Machine

/-- RSTATE (R22). -/
inductive RState where
  | ready
  | run
  | done
  | fault
  deriving DecidableEq, Repr

/-- MODE (R26); the value 3 is never written and has no constructor. -/
inductive Mode where
  | idle
  | enc
  | dec
  deriving DecidableEq, Repr

/-- The fault causes of `60_exceptions.md` R280. A command that raises one is a NEXT state: fault entry (R281). -/
inductive Cause where
  | illegal
  | mode
  | seq
  | prob
  | range
  | index
  deriving DecidableEq, Repr

/-- One frequency table (R34): `sum` and the 257 counts `freq[0..256]`, index 256 the escape symbol. -/
structure Table where
  sum : Word
  freq : Vector Word 257
  deriving DecidableEq, Repr

/-- A fresh order-2 table: every count 0, sum 0 (R34). This is what an unlisted table of the context
memory reads as. -/
def Table.empty : Table := { sum := 0, freq := Vector.replicate 257 0 }

/-- The fresh order-0 table: every count 1, sum 257 (R34). -/
def Table.ones : Table := { sum := 257, freq := Vector.replicate 257 1 }

/-- The 256 order-2 tables `T[0..255]` (R34), as pairs (table number, table) in one canonical form: numbers
strictly rising and below 256, no entry equal to what an unlisted table reads as (`Table.empty`).
DESIGN CHOICE, safe: log entry 14. -/
abbrev ContextMem := List (Nat × Table)

/-- The canonical form of the context memory. -/
abbrev ContextMem.wf (m : ContextMem) : Prop :=
  m.Pairwise (fun a b => a.1 < b.1) ∧ ∀ e ∈ m, e.1 < 256 ∧ e.2 ≠ Table.empty

/-- What the host can do to the block (`00_scope.md` R18, `20_memory.md` R70 and R77,
`70_reset_and_hazards.md` R320 and R326). Draining OUT and RES changes no architectural content
(`20_memory.md` R67) and is no move (DEDUCED: log entry 11). -/
inductive HostMove where
  /-- The start pulse (R326). -/
  | start
  /-- The host asserts reset (R320). -/
  | assertReset
  /-- Reset completes (R320). -/
  | releaseReset
  /-- The host writes the command list (R77). -/
  | loadCmd (words : List Word)
  /-- The host writes the input bytes (R77). -/
  | loadInput (bytes : List Byte)
  /-- The host reads `width` bytes at a byte offset of the register window (R70). -/
  | readWindow (offset width : Nat)
  /-- The host writes `width` bytes at a byte offset of the register window (R70). -/
  | writeWindow (offset width : Nat) (value : Word)
  deriving DecidableEq, Repr

/-- The state of the block and of its surroundings. -/
structure State where
  /-- Run control (R22, R23, R24). -/
  rstate : RState
  pc : Word
  cause : Word
  fpc : Word
  fcmd : Word
  /-- Mode and sequencing (R26, R27). -/
  mode : Mode
  qpend : Bool
  qscale : BitVec 16
  /-- Sticky flags (R28). -/
  ovr : Bool
  vovf : Bool
  pastend : Bool
  /-- Configuration (R29): only PALSZ is stored. -/
  palsz : BitVec 8
  /-- Operand register (R30). -/
  opr : Word
  /-- Coder registers (R31). -/
  low : Word
  range : Word
  code : Word
  /-- Model registers (R32, R33). -/
  freqmax : Word
  ctxid : BitVec 64
  /-- Context memory (R34): the order-2 tables and the order-0 table. -/
  tables : ContextMem
  order0 : Table
  /-- Packer and unpacker (R35). -/
  pacc : Byte
  pcnt : BitVec 4
  ubuf : Byte
  ucnt : BitVec 4
  /-- Input stream registers (R37). -/
  inptr : Word
  inlim : Word
  /-- Output counter, output bytes and result words, oldest first (R38). -/
  outcnt : Word
  out : List Byte
  res : List Word
  /-- Launch parameters (R12, R20): the command list, the input bytes, and IN_LEN as given at the last
  start, which is what INLEN reads (`70_reset_and_hazards.md` R324; DEDUCED, unsafe before a start: log entry 5).
  CMD and IN are lists, since no command computes an address (DEDUCED: log entry 17). -/
  cmd : List Word
  inp : List Byte
  inlen : Word
  /-- Reset is asserted and has not completed (R320; DEDUCED: log entry 12). -/
  resetting : Bool
  /-- The MODEL's own field: the host's moves to come, one slot a step; `none` lets the block take the step
  (DESIGN CHOICE, safe: log entry 1). -/
  schedule : List (Option HostMove)
  /-- The MODEL's own field: the words the host's window reads have returned, oldest first (R70; log entry 3). -/
  window : List Word
  /-- The MODEL's own field: how many unspecified window reads have drawn a free value (log entry 3). -/
  draws : Nat
  deriving DecidableEq, Repr

/-- Why the machine stops without a next state. Neither arises from a state a run reaches. -/
inductive Fault where
  /-- Raised by the renormalisation loop when RANGE = 0: the rule's loop never ends there
  (`90_conflicts.md` C3: "emits (or reads) bytes for ever"). Safe: the model stops where the block hangs
  (log entry 6). -/
  | renormForever
  /-- Raised by the command step when PC > N, which `10_state.md` R23 says never holds. Safe: the model stops
  (log entry 7). -/
  | pcPastEnd
  deriving DecidableEq, Repr

/-- Why the model gives an event no meaning. All but the first are moves of a host that breaks its duties,
to which the spec gives "no move". -/
inductive Refusal where
  /-- An instruction with no meaning yet; safe. No arm raises it. -/
  | notModelled (mnemonic : String)
  /-- Raised by a host access to the window that is not an aligned 32-bit access inside it (R70,
  `93_implementation_defined.md` S3); safe (log entry 8). -/
  | windowAccess
  /-- Raised by a host that changes CMD or IN while RSTATE = RUN (R77, S6); safe. -/
  | hostWroteDuringRun
  /-- Raised by a host that starts or loads before reset completes (R323, R330 item 9); safe (log entry 9). -/
  | hostActedDuringReset
  /-- Raised by a load longer than `2^32 − 1` (R12); safe (log entry 10). -/
  | launchTooLong
  deriving DecidableEq, Repr

/-- How the work of a command can fail before it completes. -/
inductive Abort where
  /-- The command raises a cause: fault entry follows (`60_exceptions.md` R281). -/
  | raise (e : Cause)
  /-- The machine is stuck inside the command. -/
  | stuck (f : Fault)
  deriving DecidableEq, Repr

/-- The state right after reset (R40), with nothing loaded and no host move to come (log entries 2, 3, 5 and 17 for
the fields R40 does not list). -/
def State.reset : State where
  rstate := .ready
  pc := 0
  cause := 0
  fpc := 0
  fcmd := 0
  mode := .idle
  qpend := false
  qscale := 0
  ovr := false
  vovf := false
  pastend := false
  palsz := 0
  opr := 0
  low := 0
  range := 0xFFFFFFFF
  code := 0
  freqmax := Config.freqMaxStart
  ctxid := 0
  tables := []
  order0 := Table.ones
  pacc := 0
  pcnt := 0
  ubuf := 0
  ucnt := 0
  inptr := 0
  inlim := 0xFFFFFFFF
  outcnt := 0
  out := []
  res := []
  cmd := []
  inp := []
  inlen := 0
  resetting := false
  schedule := []
  window := []
  draws := 0

end Sys2Proof.Machine
end

