-- ==== Sys2Proof/Machine/Flags.lean ====
section
/-! DEFINITION. The numeric codes of the run state, the coder mode and the fault causes, the STATUS word
(`10_state.md` R25), the sticky flags (R28) and the `irq` output (`60_exceptions.md` R290). -/

namespace Sys2Proof.Machine

/-- The two bits of RSTATE (R22). -/
def RState.bits : RState → BitVec 2
  | .ready => 0
  | .run => 1
  | .done => 2
  | .fault => 3

/-- The two bits of MODE (R26). -/
def Mode.bits : Mode → BitVec 2
  | .idle => 0
  | .enc => 1
  | .dec => 2

/-- The value of CAUSE for each cause (`60_exceptions.md` R280). -/
def Cause.code : Cause → Word
  | .illegal => 1
  | .mode => 2
  | .seq => 3
  | .prob => 4
  | .range => 5
  | .index => 6

/-- STATUS (R25): PASTEND, VOVF, OVR, QPEND, MODE, RSTATE in bits 7 to 0; every other bit reads 0. -/
def statusWord (s : State) : Word :=
  0#24 ++ BitVec.ofBool s.pastend ++ BitVec.ofBool s.vovf ++ BitVec.ofBool s.ovr
    ++ BitVec.ofBool s.qpend ++ s.mode.bits ++ s.rstate.bits

/-- A decoder search overran (R28). -/
def setOvr (s : State) : State := { s with ovr := true }

/-- A varint was too long or dropped value bits (R28). -/
def setVovf (s : State) : State := { s with vovf := true }

/-- The `irq` output (R290): asserted exactly while RSTATE is DONE or FAULT, and not during reset
(`70_reset_and_hazards.md` R320). -/
def irq (s : State) : Bool := !s.resetting && (s.rstate == .done || s.rstate == .fault)

end Sys2Proof.Machine
end

