-- ==== Sys2Proof/Machine/Operands.lean ====
section
/-! DEFINITION. Operands: the two halves of OPR (`30_encoding.md` R92), the palette quantities derived from
PALSZ (`44_bit_packer.md` R260), the register file as RDREG and the host read it (`10_state.md` R39), and the
context memory as commands select from it (R34, `43_ppm_model.md` R221). -/

namespace Sys2Proof.Machine

/-! ### OPR -/

/-- `low_p = OPR[15:0]` (R92). -/
def oprLow (s : State) : Nat := (s.opr.extractLsb' 0 16).toNat

/-- `high_p = OPR[31:16]` (R92). -/
def oprHigh (s : State) : Nat := (s.opr.extractLsb' 16 16).toNat

/-! ### Palette size -/

/-- `ceil(log2(x))`: the least `b ≥ 0` with `2^b ≥ x` (R260), for `x ≤ 256`. -/
def ceilLog2 (x : Nat) : Nat := ([0, 1, 2, 3, 4, 5, 6, 7, 8].find? fun b => x ≤ 2 ^ b).getD 9

/-- `P`: PALSZ, where 0 means 256 (`40_control.md` R124). -/
def paletteSize (s : State) : Nat := if s.palsz.toNat = 0 then 256 else s.palsz.toNat

/-- `BPI = min(ceil(log2(max(P, 2))), 8)` (R260). -/
def bitsPerIndex (s : State) : Nat := min (ceilLog2 (max (paletteSize s) 2)) 8

/-- `IPB = 8 / BPI` (R260). -/
def indicesPerByte (s : State) : Nat := 8 / bitsPerIndex s

/-- What FREQMAX grows by at a rescale: `(256 − P) / 2` (`43_ppm_model.md` R224). -/
def freqMaxGrowth (s : State) : Word := BitVec.ofNat 32 ((256 - paletteSize s) / 2)

/-! ### Registers -/

/-- CFG (R29): P in [24:16], IPB in [15:12], BPI in [11:8], PALSZ in [7:0]. -/
def cfgWord (s : State) : Word :=
  0#7 ++ BitVec.ofNat 9 (paletteSize s) ++ BitVec.ofNat 4 (indicesPerByte s)
    ++ BitVec.ofNat 4 (bitsPerIndex s) ++ s.palsz

/-- PACK (R35): `zext_32(PCNT ∥ PACC)`. -/
def packWord (s : State) : Word := 0#20 ++ s.pcnt ++ s.pacc

/-- UNPACK (R35): `zext_32(UCNT ∥ UBUF)`. -/
def unpackWord (s : State) : Word := 0#20 ++ s.ucnt ++ s.ubuf

/-- Register `n` (R39); the reserved numbers read 0 (a host read of them does; RDREG of them is illegal). -/
def readReg (n : Nat) (s : State) : Word :=
  match n with
  | 0 => Config.idWord
  | 1 => statusWord s
  | 2 => s.cause
  | 3 => s.fpc
  | 4 => s.fcmd
  | 5 => cfgWord s
  | 6 => s.opr
  | 7 => s.low
  | 8 => s.range
  | 9 => s.code
  | 10 => s.freqmax
  | 11 => s.ctxid.extractLsb' 0 32
  | 12 => s.ctxid.extractLsb' 32 32
  | 13 => packWord s
  | 14 => unpackWord s
  | 15 => s.qscale.setWidth 32
  | 16 => s.inptr
  | 17 => s.inlim
  | 18 => s.inlen
  | 19 => s.outcnt
  | 20 => s.pc
  | _ => 0

/-! ### Context memory -/

/-- Count `i` of a table. -/
def Table.count (t : Table) (i : Nat) : Word := t.freq[i]?.getD 0

/-- Replace count `i` of a table. -/
def Table.setCount (t : Table) (i : Nat) (v : Word) : Table :=
  { t with freq := t.freq.setIfInBounds i v }

/-- The table stored under number `c`; an unlisted one reads as the empty table. -/
def ContextMem.read : ContextMem → Nat → Table
  | [], _ => Table.empty
  | (k, t) :: m, c => if c < k then Table.empty else if c = k then t else ContextMem.read m c

/-- Store a table under number `c`, keeping the canonical form: an empty table leaves no entry. -/
def ContextMem.write : ContextMem → Nat → Table → ContextMem
  | [], c, t => if t = Table.empty then [] else [(c, t)]
  | (k, u) :: m, c, t =>
    if c < k then (if t = Table.empty then (k, u) :: m else (c, t) :: (k, u) :: m)
    else if c = k then (if t = Table.empty then m else (c, t) :: m)
    else (k, u) :: ContextMem.write m c t

/-- `T[c]` (R34). -/
def readTable (c : BitVec 8) (s : State) : Table := ContextMem.read s.tables c.toNat

/-- `CTXID[7:0]`, the number of the table the next symbol uses (`43_ppm_model.md` R221). -/
def ctxIndex (s : State) : BitVec 8 := s.ctxid.extractLsb' 0 8

/-- What RDFREQ selects (`40_control.md` R126): a sum or a count, of the order-0 table or of `T[c]`. -/
def readFreq (S O : Bool) (i : BitVec 9) (c : BitVec 8) (s : State) : Word :=
  let tbl := if O then s.order0 else readTable c s
  if S then tbl.sum else tbl.count i.toNat

end Sys2Proof.Machine
end

