-- ==== Sys2Proof/Machine/Ops.lean ====
section
/-! DEFINITION. The operations the commands share: the streams (`20_memory.md` R62, R64, R66), the context
memory's writers, initialisation (`10_state.md` R36), the checks (`60_exceptions.md` R283), FAULT ENTRY (R281,
R282) with the only way out of a fault beside it (reset, R292), and the completion of a command
(`70_reset_and_hazards.md` R327). -/

namespace Sys2Proof.Machine

/-! ### Streams -/

/-- The exclusive end of the readable input, `min(IN_LEN, INLIM)` (R62). -/
def inputEnd (s : State) : Nat := min s.inp.length s.inlim.toNat

/-- The byte `InRead()` returns (R62): `IN[INPTR]` before the end, 0 at or beyond it. -/
def nextByte (s : State) : Byte :=
  if h : s.inptr.toNat < inputEnd s then
    s.inp[s.inptr.toNat]'(Nat.lt_of_lt_of_le h (Nat.min_le_left _ _))
  else 0

/-- The state `InRead()` leaves (R62): PASTEND is set where the read was at or beyond the end, and INPTR
advances, saturating at `0xFFFFFFFF`. -/
def afterRead (s : State) : State :=
  { s with
    pastend := s.pastend || decide (inputEnd s ≤ s.inptr.toNat)
    inptr := if s.inptr = 0xFFFFFFFF then s.inptr else s.inptr + 1 }

/-- `InRead()` (R62). -/
def inRead (s : State) : Byte × State := (nextByte s, afterRead s)

/-- `OutWrite(b)` (R64). -/
def outWrite (b : Byte) (s : State) : State :=
  { s with out := s.out ++ [b], outcnt := s.outcnt + 1 }

/-- `OutWrite` of each byte of a list, in order. -/
def outWrites : List Byte → State → State
  | [], s => s
  | b :: bs, s => outWrites bs (outWrite b s)

/-- `ResPush(w)` (R66). -/
def resPush (w : Word) (s : State) : State := { s with res := s.res ++ [w] }

/-! ### Context memory -/

/-- `T[c] <- t`. -/
def writeTable (c : BitVec 8) (t : Table) (s : State) : State :=
  { s with tables := ContextMem.write s.tables c.toNat t }

/-- `CTXID <- (CTXID << 8) | zext_64(sym)` (`43_ppm_model.md` R221). -/
def pushCtx (sym : Byte) (s : State) : State :=
  { s with ctxid := (s.ctxid <<< 8) ||| sym.setWidth 64 }

/-- `InitCoderModel(m)` (R36). -/
def initCoderModel (m : Mode) (s : State) : State :=
  { s with
    mode := m
    low := 0
    range := 0xFFFFFFFF
    code := 0
    qpend := false
    qscale := 0
    freqmax := Config.freqMaxStart
    ctxid := 0
    tables := []
    order0 := Table.ones
    pacc := 0
    pcnt := 0
    ubuf := 0
    ucnt := 0 }

/-! ### Faults -/

/-- `FaultEntry(e, w)` (R281), applied to the state BEFORE the faulting command, so that every effect of the
command is discarded (R282): CAUSE, FPC and FCMD are written, the block stops in FAULT, PC is not advanced. -/
def faultEntry (e : Cause) (w : Word) (s : State) : State :=
  { s with cause := e.code, fpc := s.pc, fcmd := w, rstate := .fault }

/-- The end of a reset, the only exit from FAULT (R292): every piece of state takes its reset value
(`10_state.md` R40); the launch parameters stay (`70_reset_and_hazards.md` R320), as do the model's own fields. -/
def resetBlock (s : State) : State :=
  { State.reset with
    cmd := s.cmd
    inp := s.inp
    inlen := s.inlen
    schedule := s.schedule
    window := s.window
    draws := s.draws }

/-- One check of R283: the command goes on if it holds and raises `e` if not. -/
def require {α : Type} (ok : Bool) (e : Cause) (k : Except Abort α) : Except Abort α :=
  if ok then k else .error (.raise e)

/-- The end of a command with word `w` started in `s` (R327): it completes and PC advances, or it enters
the fault it raised from `s` itself. Every meaning gives its own encoding as `w` (DEDUCED: log entry 13). -/
def complete (w : Word) (s : State) (r : Except Abort State) : Host.Outcome State Fault Refusal :=
  match r with
  | .ok t => .next { t with pc := s.pc + 1 }
  | .error (.raise e) => .next (faultEntry e w s)
  | .error (.stuck f) => .fault f

end Sys2Proof.Machine
end

