-- ==== Sys2Proof/Machine/Control.lean ====
section
/-! DEFINITION. Control and register-access commands (`40_control.md` R120 to R128). -/

namespace Sys2Proof.Machine

/-- NOP (R120). -/
def execNop (s : State) : Host.Outcome State Fault Refusal :=
  complete (encode .nop) s (.ok s)

/-- HALT (R121): RSTATE <- DONE, and PC still advances. -/
def execHalt (s : State) : Host.Outcome State Fault Refusal :=
  complete (encode .halt) s (.ok { s with rstate := .done })

/-- LDL (R122): OPR <- OPR[31:16] ∥ u16. -/
def execLdl (u16 : BitVec 16) (s : State) : Host.Outcome State Fault Refusal :=
  complete (encode (.ldl u16)) s (.ok { s with opr := s.opr.extractLsb' 16 16 ++ u16 })

/-- LDH (R123): OPR <- u16 ∥ OPR[15:0]. -/
def execLdh (u16 : BitVec 16) (s : State) : Host.Outcome State Fault Refusal :=
  complete (encode (.ldh u16)) s (.ok { s with opr := u16 ++ s.opr.extractLsb' 0 16 })

/-- CFG (R124): PALSZ <- u8, in IDLE only. -/
def execCfg (u8 : BitVec 8) (s : State) : Host.Outcome State Fault Refusal :=
  complete (encode (.cfg u8)) s <|
    require (s.mode == .idle) .mode <| .ok { s with palsz := u8 }

/-- RDREG (R125): push a register; a reserved number is illegal. -/
def execRdreg (reg : BitVec 5) (s : State) : Host.Outcome State Fault Refusal :=
  complete (encode (.rdreg reg)) s <|
    require (regLegal reg) .illegal <| .ok (resPush (readReg reg.toNat s) s)

/-- RDFREQ (R126): push one count or sum; an operand outside R93 is illegal. -/
def execRdfreq (S O : Bool) (i : BitVec 9) (c : BitVec 8) (s : State) :
    Host.Outcome State Fault Refusal :=
  complete (encode (.rdfreq S O i c)) s <|
    require (freqSelLegal S O i c) .illegal <| .ok (resPush (readFreq S O i c s) s)

/-- SEEK (R127): INPTR <- OPR. -/
def execSeek (s : State) : Host.Outcome State Fault Refusal :=
  complete (encode .seek) s (.ok { s with inptr := s.opr })

/-- LIMIT (R128): INLIM <- OPR. -/
def execLimit (s : State) : Host.Outcome State Fault Refusal :=
  complete (encode .limit) s (.ok { s with inlim := s.opr })

end Sys2Proof.Machine
end

