-- ==== Sys2Proof/Machine/RangeCoder.lean ====
section
/-! DEFINITION. The range coder: its primitives (`42_range_coder.md` R171 to R174, R179, R182), which the
model commands also call, and the seven commands that expose it (R176 to R184). Probabilities and scales are
exact naturals; LOW, RANGE and CODE are 32-bit and wrap. -/

namespace Sys2Proof.Machine

/-! ### Primitives -/

/-- LOW and RANGE take new values. -/
def setCoder (low range : Word) (s : State) : State := { s with low := low, range := range }

/-- CODE takes a new value. -/
def setCode (code : Word) (s : State) : State := { s with code := code }

/-- CODE takes in the next input byte: `CODE <- (CODE << 8) | b` (R173). -/
def shiftCode (s : State) : State :=
  let (b, t) := inRead s
  setCode ((s.code <<< Config.codeBitsInv) ||| b.setWidth 32) t

/-- One test of the renormalisation loop (R172): `none` to exit, else the RANGE with which the loop goes on to
its shift, cut by the underflow expansion where that runs (R174). -/
def renormTest (low range : Word) : Option Word :=
  if Config.codeMax ≤ (low ^^^ (low + range)).toNat then
    if Config.probMax ≤ range.toNat then none
    else some (BitVec.ofNat 32 (Config.probMax - low.toNat % Config.probMax))
  else some range

/-- `RenormEnc()` (R172), at most `n` tests. -/
def renormEncLoop : Nat → State → Except Abort State
  | 0, _ => .error (.stuck .renormForever)
  | n + 1, s =>
    match renormTest s.low s.range with
    | none => .ok s
    | some range =>
      renormEncLoop n
        (setCoder (s.low <<< Config.codeBitsInv) (range <<< Config.codeBitsInv)
          (outWrite (s.low.extractLsb' Config.codeBits 8) s))

/-- `RenormDec()` (R173), at most `n` tests. -/
def renormDecLoop : Nat → State → Except Abort State
  | 0, _ => .error (.stuck .renormForever)
  | n + 1, s =>
    match renormTest s.low s.range with
    | none => .ok s
    | some range =>
      renormDecLoop n
        (setCoder (s.low <<< Config.codeBitsInv) (range <<< Config.codeBitsInv) (shiftCode s))

/-- `RenormEnc()`: from any RANGE but 0 it ends within three shifts (R175), so four tests suffice; from
RANGE = 0 the rule's loop never ends and the model is stuck. -/
def renormEnc (s : State) : Except Abort State := renormEncLoop 4 s

/-- `RenormDec()`: as `renormEnc`. -/
def renormDec (s : State) : Except Abort State := renormDecLoop 4 s

/-- `EncStep(lp, hp, sc)` (R171). A scale of 0, which no run gives, divides to 0 (log entry 15). -/
def encStep (lp hp sc : Nat) (s : State) : Except Abort State :=
  let r := s.range.toNat / sc
  if r = 0 then .error (.raise .range)
  else renormEnc (setCoder (s.low + BitVec.ofNat 32 (lp * r)) (BitVec.ofNat 32 (r * (hp - lp))) s)

/-- `DecQuery(sc)` (R179): the query value, and the state with RANGE divided. A scale of 0 as in
`encStep`. -/
def decQuery (sc : Nat) (s : State) : Except Abort (Word × State) :=
  let r := s.range.toNat / sc
  if r = 0 then .error (.raise .range)
  else .ok ((s.code - s.low) / BitVec.ofNat 32 r, { s with range := BitVec.ofNat 32 r })

/-- `DecUpdate(lp, hp)` (R182). -/
def decUpdate (lp hp : Nat) (s : State) : Except Abort State :=
  renormDec
    (setCoder (s.low + BitVec.ofNat 32 (s.range.toNat * lp))
      (BitVec.ofNat 32 (s.range.toNat * (hp - lp))) s)

/-- The source's precondition on a raw triple, with `scale ≥ 1` (`60_exceptions.md` R286). -/
def scaleLegal (sc : Nat) : Bool := 1 ≤ sc && sc ≤ Config.probMax

/-- `lp < hp ≤ sc` (R286). -/
def intervalLegal (lp hp sc : Nat) : Bool := lp < hp && hp ≤ sc

/-! ### Encoder commands -/

/-- ENC_INIT (R176). -/
def execEncInit (s : State) : Host.Outcome State Fault Refusal :=
  complete (encode .encInit) s (.ok (initCoderModel .enc s))

/-- One round of the flush (R177): write LOW's top byte, then shift LOW. -/
def flushByte (s : State) : State :=
  { outWrite (s.low.extractLsb' Config.codeBits 8) s with low := s.low <<< Config.codeBitsInv }

/-- ENC_FLUSH (R177): four rounds, then MODE <- IDLE; refused while a packed byte is partly filled. -/
def execEncFlush (s : State) : Host.Outcome State Fault Refusal :=
  complete (encode .encFlush) s <|
    require (s.mode == .enc) .mode <|
    require (s.pcnt == 0) .seq <|
    .ok { flushByte (flushByte (flushByte (flushByte s))) with mode := .idle }

/-- AC_ENC (R178): one coder step with the triple OPR[15:0], OPR[31:16], u16. -/
def execAcEnc (u16 : BitVec 16) (s : State) : Host.Outcome State Fault Refusal :=
  complete (encode (.acEnc u16)) s <|
    require (s.mode == .enc) .mode <|
    require (scaleLegal u16.toNat && intervalLegal (oprLow s) (oprHigh s) u16.toNat) .prob <|
    encStep (oprLow s) (oprHigh s) u16.toNat s

/-! ### Decoder commands -/

/-- DEC_INIT (R180): initialise, then load CODE with four bytes, most significant first. -/
def execDecInit (s : State) : Host.Outcome State Fault Refusal :=
  let (b0, s1) := inRead (initCoderModel .dec s)
  let (b1, s2) := inRead s1
  let (b2, s3) := inRead s2
  let (b3, s4) := inRead s3
  complete (encode .decInit) s (.ok (setCode (b0 ++ b1 ++ b2 ++ b3) s4))

/-- DEC_END (R181). -/
def execDecEnd (s : State) : Host.Outcome State Fault Refusal :=
  complete (encode .decEnd) s <|
    require (s.mode == .dec) .mode <|
    .ok { s with mode := .idle, qpend := false, ubuf := 0, ucnt := 0 }

/-- AC_DFREQ (R183): push the query value; RANGE stays divided and the update is owed. -/
def execAcDfreq (u16 : BitVec 16) (s : State) : Host.Outcome State Fault Refusal :=
  complete (encode (.acDfreq u16)) s <|
    require (s.mode == .dec) .mode <|
    require (!s.qpend) .seq <|
    require (scaleLegal u16.toNat) .prob <| do
    let (f, t) ← decQuery u16.toNat s
    .ok (resPush f { t with qpend := true, qscale := u16 })

/-- AC_DUPD (R184): the update of the pending query with the interval OPR[15:0], OPR[31:16]. -/
def execAcDupd (s : State) : Host.Outcome State Fault Refusal :=
  complete (encode .acDupd) s <|
    require (s.mode == .dec) .mode <|
    require s.qpend .seq <|
    require (intervalLegal (oprLow s) (oprHigh s) s.qscale.toNat) .prob <| do
    let t ← decUpdate (oprLow s) (oprHigh s) s
    .ok { t with qpend := false }

end Sys2Proof.Machine
end

