-- ==== Sys2Proof/Machine/Ppm.lean ====
section
/-! DEFINITION. The PPM model: the table procedures (`43_ppm_model.md` R222 to R226), the two symbol
procedures (R227, R228), which the packer also calls, and the commands PPM_ENC and PPM_DEC (R230, R231).
Counts, sums and FREQMAX wrap modulo `2^32` (log entry 4); running totals are exact naturals. -/

namespace Sys2Proof.Machine

/-- The escape symbol (R220). -/
def escape : Nat := 256

/-! ### Tables -/

/-- `Σ` of a list of counts, exact. -/
def sumCounts : List Word → Nat
  | [] => 0
  | f :: fs => f.toNat + sumCounts fs

/-- `CumLo(tbl, s)` (R222): the exact sum of the counts below `s`. -/
def Table.cumLo (t : Table) (s : Nat) : Nat := sumCounts (t.freq.toList.take s)

/-- The exact sum of all 257 counts. -/
def Table.total (t : Table) : Nat := sumCounts t.freq.toList

/-- `⌈f/2⌉` without overflow: `(f >> 1) + (f & 1)` (R224). -/
def halfUp (f : Word) : Word := (f >>> 1) + (f &&& 1#32)

/-- Halve every count and recompute the sum (R224). -/
def Table.rescale (t : Table) : Table :=
  let freq : Vector Word 257 := ⟨⟨t.freq.toList.map halfUp⟩, by simp⟩
  { sum := BitVec.ofNat 32 (sumCounts freq.toList), freq := freq }

/-- The first two lines of UPDATE (R224): count `s` and the sum grow by 2. -/
def Table.bump (t : Table) (s : Nat) : Table :=
  { t.setCount s (t.count s + 2) with sum := t.sum + 2 }

/-- The test of UPDATE (R224), on the table already bumped. -/
def Table.mustRescale (t : Table) (s : Nat) (freqmax : Word) : Bool :=
  freqmax.toNat ≤ (t.count s).toNat || Config.probMax ≤ t.sum.toNat

/-- The table that `UPDATE(tbl, s)` leaves (R224). -/
def Table.updated (t : Table) (s : Nat) (freqmax : Word) : Table :=
  if (t.bump s).mustRescale s freqmax then (t.bump s).rescale else t.bump s

/-- FREQMAX as `UPDATE(tbl, s)` leaves it (R224). -/
def freqmaxUpdated (t : Table) (s : Nat) (st : State) : Word :=
  if (t.bump s).mustRescale s st.freqmax then st.freqmax + freqMaxGrowth st else st.freqmax

/-- The escape increment of R227 and R228: never followed by a rescale. -/
def Table.escaped (t : Table) : Table :=
  { t.setCount escape (t.count escape + 1) with sum := t.sum + 1 }

/-- `NoteNovel(ctx, s)` (R223). -/
def Table.novel (t : Table) (s : Nat) : Table :=
  let t := if t.sum = 0 then { t.setCount escape 1 with sum := 1 } else t
  { t.setCount s 1 with sum := t.sum + 1 }

/-- `UPDATE(T[c], sym)` on the state. -/
def updateTable (c : BitVec 8) (sym : Byte) (s : State) : State :=
  { writeTable c ((readTable c s).updated sym.toNat s.freqmax) s with
    freqmax := freqmaxUpdated (readTable c s) sym.toNat s }

/-- `UPDATE(O0, sym)` on the state. -/
def updateOrder0 (sym : Byte) (s : State) : State :=
  { s with
    order0 := s.order0.updated sym.toNat s.freqmax
    freqmax := freqmaxUpdated s.order0 sym.toNat s }

/-- The escape increment of `T[c]`. -/
def escapeTable (c : BitVec 8) (s : State) : State := writeTable c (readTable c s).escaped s

/-- `NoteNovel(T[c], sym)`. -/
def novelTable (c : BitVec 8) (sym : Byte) (s : State) : State :=
  writeTable c ((readTable c s).novel sym.toNat) s

/-! ### Symbol search -/

/-- The scan of R226 from index `i` with running total `t`: the first index whose total exceeds `f`, as
`(i, lp, hp)`. -/
def searchFrom (f : Nat) : Nat → Nat → List Word → Option (Nat × Nat × Nat)
  | _, _, [] => none
  | i, t, x :: xs =>
    if f < t + x.toNat then some (i, t, t + x.toNat) else searchFrom f (i + 1) (t + x.toNat) xs

/-- The largest index of a non-zero count, counting from `i`. -/
def lastNonZero : Nat → List Word → Option Nat
  | _, [] => none
  | i, x :: xs =>
    match lastNonZero (i + 1) xs with
    | some j => some j
    | none => if x = 0 then none else some i

/-- `Search(tbl, n, f)` (R226): `(i, lp, hp)` and the state, with OVR set if no running total exceeded `f`
and the search was clamped to the last non-zero count. -/
def search (t : Table) (n f : Nat) (s : State) : Except Abort ((Nat × Nat × Nat) × State) :=
  let counts := t.freq.toList.take n
  match searchFrom f 0 0 counts with
  | some hit => .ok (hit, s)
  | none =>
    match lastNonZero 0 counts with
    | none => .error (.raise .range)
    | some i => .ok ((i, sumCounts counts - (t.count i).toNat, sumCounts counts), setOvr s)

/-! ### Encoding a symbol -/

/-- `EncodeFrom(tbl, sym)` (R222). -/
def encodeFrom (t : Table) (sym : Nat) (s : State) : Except Abort State :=
  encStep (t.cumLo sym) (t.cumLo sym + (t.count sym).toNat) t.sum.toNat s

/-- Whether `T[c]` can code the symbol: it is non-empty and holds it (R227). -/
def hits (t : Table) (sym : Byte) : Bool := t.sum != 0 && t.count sym.toNat != 0

/-- The escape of R227: coded and counted in a non-empty table, nothing in an empty one. -/
def encEscape (c : BitVec 8) (s : State) : Except Abort State :=
  if (readTable c s).sum = 0 then .ok s
  else do
    let s1 ← encodeFrom (readTable c s) escape s
    .ok (escapeTable c s1)

/-- `PpmEncCore(sym)` (R227). -/
def ppmEncCore (sym : Byte) (s : State) : Except Abort State :=
  let c := ctxIndex s
  if hits (readTable c s) sym then do
    let s1 ← encodeFrom (readTable c s) sym.toNat s
    .ok (pushCtx sym (updateTable c sym s1))
  else do
    let s1 ← encEscape c s
    let s2 ← encodeFrom s1.order0 sym.toNat s1
    .ok (pushCtx sym (updateOrder0 sym (novelTable c sym s2)))

/-! ### Decoding a symbol -/

/-- Query, search and update on one table (R228): the index found and the state after the coder step. -/
def decodeFrom (t : Table) (n : Nat) (s : State) : Except Abort (Nat × State) := do
  let (f, s1) ← decQuery t.sum.toNat s
  let ((i, lp, hp), s2) ← search t n f.toNat s1
  let s3 ← decUpdate lp hp s2
  .ok (i, s3)

/-- The order-0 path of R228 for the context `c`. -/
def decOrder0 (c : BitVec 8) (s : State) : Except Abort (Byte × State) := do
  let (i, s1) ← decodeFrom s.order0 256 s
  let sym : Byte := BitVec.ofNat 8 i
  .ok (sym, pushCtx sym (updateOrder0 sym (novelTable c sym s1)))

/-- `PpmDecCore()` (R228): the symbol and the state. -/
def ppmDecCore (s : State) : Except Abort (Byte × State) :=
  let c := ctxIndex s
  if (readTable c s).sum = 0 then decOrder0 c s
  else do
    let (i, s1) ← decodeFrom (readTable c s) 257 s
    if i = escape then decOrder0 c (escapeTable c s1)
    else
      let sym : Byte := BitVec.ofNat 8 i
      .ok (sym, pushCtx sym (updateTable c sym s1))

/-! ### Commands -/

/-- PPM_ENC (R230). -/
def execPpmEnc (u8 : BitVec 8) (s : State) : Host.Outcome State Fault Refusal :=
  complete (encode (.ppmEnc u8)) s <|
    require (s.mode == .enc) .mode <|
    require (s.pcnt == 0) .seq <|
    ppmEncCore u8 s

/-- PPM_DEC (R231). -/
def execPpmDec (s : State) : Host.Outcome State Fault Refusal :=
  complete (encode .ppmDec) s <|
    require (s.mode == .dec) .mode <|
    require (!s.qpend && s.ucnt == 0) .seq <| do
    let (sym, t) ← ppmDecCore s
    .ok (resPush (sym.setWidth 32) t)

end Sys2Proof.Machine
end

