-- ==== Sys2Proof/Machine/Packer.lean ====
section
/-! DEFINITION. The palette-index bit packer (`44_bit_packer.md` R261 to R265). -/

namespace Sys2Proof.Machine

/-- The packed byte with index `idx` in slot PCNT (R261, R263). -/
def packedWith (idx : BitVec 8) (s : State) : Byte :=
  s.pacc ||| (idx <<< (s.pcnt.toNat * bitsPerIndex s))

/-- Encode the packed byte and leave the packer empty (R263, R264). -/
def encodePacked (b : Byte) (s : State) : Except Abort State :=
  ppmEncCore b { s with pacc := 0, pcnt := 0 }

/-- PIX_ENC (R263): the index joins the packed byte; a full byte is encoded. -/
def execPixEnc (u8 : BitVec 8) (s : State) : Host.Outcome State Fault Refusal :=
  complete (encode (.pixEnc u8)) s <|
    require (s.mode == .enc) .mode <|
    require (u8.toNat < 2 ^ bitsPerIndex s) .index <|
    if (s.pcnt + 1).toNat = indicesPerByte s then encodePacked (packedWith u8 s) s
    else .ok { s with pacc := packedWith u8 s, pcnt := s.pcnt + 1 }

/-- PIX_FLUSH (R264): a partly filled byte is encoded; an empty one is left alone. -/
def execPixFlush (s : State) : Host.Outcome State Fault Refusal :=
  complete (encode .pixFlush) s <|
    require (s.mode == .enc) .mode <|
    if s.pcnt = 0 then .ok s else encodePacked s.pacc s

/-- The first lines of R265: with no index left, decode a symbol into the unpacker. -/
def refillUnpacker (s : State) : Except Abort State :=
  if s.ucnt = 0 then do
    let (sym, t) ← ppmDecCore s
    .ok { t with ubuf := sym, ucnt := BitVec.ofNat 4 (indicesPerByte s) }
  else .ok s

/-- The last lines of R265: slot 0 of what is left leaves the unpacker and is pushed. -/
def takeIndex (s : State) : State :=
  resPush ((s.ubuf &&& BitVec.ofNat 8 (2 ^ bitsPerIndex s - 1)).setWidth 32)
    { s with ubuf := s.ubuf >>> bitsPerIndex s, ucnt := s.ucnt - 1 }

/-- PIX_DEC (R265). -/
def execPixDec (s : State) : Host.Outcome State Fault Refusal :=
  complete (encode .pixDec) s <|
    require (s.mode == .dec) .mode <|
    require (!s.qpend) .seq <| do
    let t ← refillUnpacker s
    .ok (takeIndex t)

end Sys2Proof.Machine
end

