-- ==== Sys2Proof/Machine/Varint.lean ====
section
/-! DEFINITION. The variable-length integer codec (`41_varint.md` R150 and R152). -/

namespace Sys2Proof.Machine

/-- The loop of R150 as the list of bytes it writes: low 7 bits first, continuation bit on all but the last.
A 32-bit value is used up within five rounds, the depth the caller gives. -/
def varintBytes : Nat → Word → List Byte
  | 0, _ => []
  | n + 1, v =>
    let b : Byte := (v.extractLsb' 0 7).setWidth 8
    if v >>> 7 = 0 then [b] else (0x80 ||| b) :: varintBytes n (v >>> 7)

/-- The loop of R152 with `n` bytes still allowed and `5 − n` read: the value so far, and the state. After
five bytes a sixth is never read and VOVF is set. -/
def varintRead : Nat → Word → State → Word × State
  | 0, v, s => (v, setVovf s)
  | n + 1, v, s =>
    let (b, s) := inRead s
    let part := (b.extractLsb' 0 7).toNat <<< (7 * (5 - (n + 1)))
    let s := if 2 ^ 32 ≤ part then setVovf s else s
    let v := v ||| BitVec.ofNat 32 part
    if b.getLsbD 7 then varintRead n v s else (v, s)

/-- VAR_ENC (R150): append the varint of OPR to OUT. -/
def execVarEnc (s : State) : Host.Outcome State Fault Refusal :=
  complete (encode .varEnc) s (.ok (outWrites (varintBytes 5 s.opr) s))

/-- VAR_DEC (R152): read a varint from IN and push its value. -/
def execVarDec (s : State) : Host.Outcome State Fault Refusal :=
  let (v, t) := varintRead 5 0 s
  complete (encode .varDec) s (.ok (resPush v t))

end Sys2Proof.Machine
end

