-- ==== Sys2Proof/Machine/Dispatch.lean ====
section
/-! DEFINITION. One command on one state: one arm per command, each a direct call of its meaning. -/

namespace Sys2Proof.Machine

/-- The execution of one command (`70_reset_and_hazards.md` R327). -/
def exec (i : Instr) (s : State) : Host.Outcome State Fault Refusal :=
  match i with
  | .nop => Sys2Proof.Machine.execNop s
  | .halt => Sys2Proof.Machine.execHalt s
  | .ldl u16 => Sys2Proof.Machine.execLdl u16 s
  | .ldh u16 => Sys2Proof.Machine.execLdh u16 s
  | .cfg u8 => Sys2Proof.Machine.execCfg u8 s
  | .rdreg reg => Sys2Proof.Machine.execRdreg reg s
  | .rdfreq S O j c => Sys2Proof.Machine.execRdfreq S O j c s
  | .seek => Sys2Proof.Machine.execSeek s
  | .limit => Sys2Proof.Machine.execLimit s
  | .encInit => Sys2Proof.Machine.execEncInit s
  | .encFlush => Sys2Proof.Machine.execEncFlush s
  | .acEnc u16 => Sys2Proof.Machine.execAcEnc u16 s
  | .ppmEnc u8 => Sys2Proof.Machine.execPpmEnc u8 s
  | .pixEnc u8 => Sys2Proof.Machine.execPixEnc u8 s
  | .pixFlush => Sys2Proof.Machine.execPixFlush s
  | .decInit => Sys2Proof.Machine.execDecInit s
  | .decEnd => Sys2Proof.Machine.execDecEnd s
  | .acDfreq u16 => Sys2Proof.Machine.execAcDfreq u16 s
  | .acDupd => Sys2Proof.Machine.execAcDupd s
  | .ppmDec => Sys2Proof.Machine.execPpmDec s
  | .pixDec => Sys2Proof.Machine.execPixDec s
  | .varEnc => Sys2Proof.Machine.execVarEnc s
  | .varDec => Sys2Proof.Machine.execVarDec s

end Sys2Proof.Machine
end

