-- ==== Sys2Proof/Machine/Fetch.lean ====
section
/-! DEFINITION. Fetching (`70_reset_and_hazards.md` R327), the block's own step, the host's moves
(R320, R324, R326; `20_memory.md` R70, R77), and who takes the next step. -/

namespace Sys2Proof.Machine

/-! ### The block -/

/-- `Step()` of R327 with RSTATE = RUN: the end of the list, an illegal word, or one command. -/
def runStep (s : State) : Host.Outcome State Fault Refusal :=
  if s.pc.toNat = s.cmd.length then .next { s with rstate := .done }
  else
    match s.cmd[s.pc.toNat]? with
    | none => .fault .pcPastEnd
    | some w =>
      match decode w with
      | .error _ => .next (faultEntry .illegal w s)
      | .ok i => exec i s

/-- The block's step: it executes nothing during reset (R320) nor in READY, DONE and FAULT
(`60_exceptions.md` R299). -/
def blockStep (s : State) : Host.Outcome State Fault Refusal :=
  if s.resetting then .next s
  else
    match s.rstate with
    | .run => runStep s
    | .ready | .done | .fault => .next s

/-! ### The host -/

/-- `HostStart()` (R326): READY and DONE start at `CMD[0]`, RUN and FAULT ignore the pulse. INLEN takes
`IN_LEN` as given at this start (R324; log entry 5). -/
def hostStart (s : State) : State :=
  if s.rstate = .ready ∨ s.rstate = .done then
    { s with pc := 0, rstate := .run, inlen := BitVec.ofNat 32 s.inp.length }
  else s

/-- An aligned 32-bit access inside the window of 32 registers (R70, `10_state.md` R39; log entry 8). -/
def windowAligned (offset width : Nat) : Bool := width == 4 && offset % 4 == 0 && offset ≤ 0x7C

/-- A read of the register window (R70): a register, or a free value while RSTATE = RUN or reset is in
progress (`93_implementation_defined.md` S1, S2). Nothing of the block changes.
DESIGN CHOICE, safe (log entry 3): the free value is returned there for EVERY offset, also for ID and a reserved
offset, where R21 and S5 taken alone would give the constant and 0. -/
def hostRead (offset : Nat) (s : State) : State :=
  if s.resetting ∨ s.rstate = .run then
    { s with window := s.window ++ [Config.windowDraw s.draws], draws := s.draws + 1 }
  else { s with window := s.window ++ [readReg (offset / 4) s] }

/-- A write of CMD or IN by the host (R77): only outside a run and outside reset, and no longer than R12 allows. -/
def hostLoad (length : Nat) (t s : State) : Host.Outcome State Fault Refusal :=
  if s.resetting then .refused .hostActedDuringReset
  else if s.rstate = .run then .refused .hostWroteDuringRun
  else if Config.maxLength < length then .refused .launchTooLong
  else .next t

/-- One move of the host. -/
def hostMove (m : HostMove) (s : State) : Host.Outcome State Fault Refusal :=
  match m with
  | .start => if s.resetting then .refused .hostActedDuringReset else .next (hostStart s)
  | .assertReset => .next { s with resetting := true }
  | .releaseReset => .next (if s.resetting then resetBlock s else s)
  | .loadCmd words => hostLoad words.length { s with cmd := words } s
  | .loadInput bytes => hostLoad bytes.length { s with inp := bytes } s
  | .readWindow offset width =>
    if windowAligned offset width then .next (hostRead offset s) else .refused .windowAccess
  | .writeWindow offset width _ =>
    if windowAligned offset width then .next s else .refused .windowAccess

/-! ### Who moves -/

/-- The host's move in this step, if it makes one. -/
def hostTurn (s : State) : Option HostMove := s.schedule.head?.join

/-- The state with this step's slot of the host's schedule used up. -/
def dropTurn (s : State) : State := { s with schedule := s.schedule.tail }

/-- One step of the machine: the host's move where its schedule has one, else the block's step. -/
def takeStep (s : State) : Host.Outcome State Fault Refusal :=
  match hostTurn s with
  | some m => hostMove m (dropTurn s)
  | none => blockStep (dropTurn s)

/-! ### Placing one command -/

/-- The command list with `w` at index `n`, NOPs filling any gap before it. -/
def placeWord (cmd : List Word) (n : Nat) (w : Word) : List Word :=
  cmd.take n ++ List.replicate (n - cmd.length) 0 ++ w :: cmd.drop (n + 1)

/-- The state in which the next step fetches and runs `w` at PC: the block is running, out of reset, and the
host makes no move (log entry 2). -/
def readyToRun (w : Word) (s : State) : State :=
  { s with cmd := placeWord s.cmd s.pc.toNat w, rstate := .run, resetting := false, schedule := [] }

end Sys2Proof.Machine
end

