-- ==== Sys2Proof/Safety.lean ====
section
/-! DEFINITION. The terms claims are stated in: which words are legal (`30_encoding.md` R91 to R96), the checks of
a command as one table (`60_exceptions.md` R283 to R286), the renormalisation loop as a relation without a
bound (`42_range_coder.md` R172), runs of input reads, and the invariants of `10_state.md` R41,
`43_ppm_model.md` R232 and `44_bit_packer.md` R261. Nothing here is used by the machine. -/

namespace Sys2Proof.Machine

/-! ### Words -/

/-- A word that R94 to R96 leave legal, by its value: `op = w / 2^24`, `imm = w mod 2^24`. -/
def LegalWord (w : Word) : Prop :=
  let op := w.toNat / 2 ^ 24
  let imm := w.toNat % 2 ^ 24
  (op ∈ [0x00, 0x01, 0x07, 0x08, 0x10, 0x11, 0x15, 0x18, 0x19, 0x1B, 0x1C, 0x1D, 0x20, 0x21] ∧ imm = 0) ∨
  (op ∈ [0x04, 0x13, 0x14] ∧ imm < 2 ^ 8) ∨
  (op ∈ [0x02, 0x03, 0x12, 0x1A] ∧ imm < 2 ^ 16) ∨
  (op = 0x05 ∧ imm ≤ 20) ∨
  (op = 0x06 ∧ imm < 2 ^ 19 ∧ imm / 2 ^ 8 % 2 ^ 9 ≤ 256 ∧
    (imm / 2 ^ 17 % 2 = 1 → imm % 2 ^ 8 = 0) ∧ (imm / 2 ^ 18 = 1 → imm / 2 ^ 8 % 2 ^ 9 = 0))

/-! ### Checks -/

/-- The MODE a command needs (R284); `none` for a mode-free command. -/
def modeNeeded : Instr → Option Mode
  | .cfg _ => some .idle
  | .encFlush | .acEnc _ | .ppmEnc _ | .pixEnc _ | .pixFlush => some .enc
  | .decEnd | .acDfreq _ | .acDupd | .ppmDec | .pixDec => some .dec
  | .nop | .halt | .ldl _ | .ldh _ | .rdreg _ | .rdfreq .. | .seek | .limit | .encInit | .decInit
  | .varEnc | .varDec => none

/-- When a command would break a pairing (R285). -/
def breaksSequence (i : Instr) (s : State) : Prop :=
  match i with
  | .encFlush | .ppmEnc _ => s.pcnt ≠ 0
  | .acDfreq _ | .pixDec => s.qpend = true
  | .acDupd => s.qpend = false
  | .ppmDec => s.qpend = true ∨ s.ucnt ≠ 0
  | .nop | .halt | .ldl _ | .ldh _ | .cfg _ | .rdreg _ | .rdfreq .. | .seek | .limit | .encInit
  | .acEnc _ | .pixEnc _ | .pixFlush | .decInit | .decEnd | .varEnc | .varDec => False

/-- The value conditions on raw triples (R286). -/
def legalTriple (i : Instr) (s : State) : Prop :=
  match i with
  | .acEnc u16 =>
    1 ≤ u16.toNat ∧ u16.toNat ≤ 16384 ∧ oprLow s < oprHigh s ∧ oprHigh s ≤ u16.toNat
  | .acDfreq u16 => 1 ≤ u16.toNat ∧ u16.toNat ≤ 16384
  | .acDupd => oprLow s < oprHigh s ∧ oprHigh s ≤ s.qscale.toNat
  | .nop | .halt | .ldl _ | .ldh _ | .cfg _ | .rdreg _ | .rdfreq .. | .seek | .limit | .encInit
  | .encFlush | .ppmEnc _ | .pixEnc _ | .pixFlush | .decInit | .decEnd | .ppmDec | .pixDec | .varEnc
  | .varDec => True

/-- The index condition of PIX_ENC (R286). -/
def legalIndex (i : Instr) (s : State) : Prop :=
  match i with
  | .pixEnc u8 => u8.toNat < 2 ^ bitsPerIndex s
  | .nop | .halt | .ldl _ | .ldh _ | .cfg _ | .rdreg _ | .rdfreq .. | .seek | .limit | .encInit
  | .encFlush | .acEnc _ | .ppmEnc _ | .pixFlush | .decInit | .decEnd | .acDfreq _ | .acDupd | .ppmDec
  | .pixDec | .varEnc | .varDec => True

/-- The mode check of a command holds. -/
def modeMet (i : Instr) (s : State) : Prop := ∀ m, modeNeeded i = some m → s.mode = m

/-- `e` is the cause the FIRST failing check of R283 gives (checks 1 to 5). -/
def FirstFailure (i : Instr) (s : State) : Cause → Prop
  | .illegal => i.wf = false
  | .mode => i.wf = true ∧ ¬ modeMet i s
  | .seq => i.wf = true ∧ modeMet i s ∧ breaksSequence i s
  | .prob => i.wf = true ∧ modeMet i s ∧ ¬ breaksSequence i s ∧ ¬ legalTriple i s
  | .index => i.wf = true ∧ modeMet i s ∧ ¬ breaksSequence i s ∧ legalTriple i s ∧ ¬ legalIndex i s
  | .range => False

/-- Every check that R283 makes before a command takes effect holds. -/
def ChecksPass (i : Instr) (s : State) : Prop :=
  i.wf = true ∧ modeMet i s ∧ ¬ breaksSequence i s ∧ legalTriple i s ∧ legalIndex i s

/-! ### Who writes what -/

/-- The parts of the state that more than one command writes (`10_state.md` R27, R28, R31 to R38, and the column
"written by" of R39). `model` is FREQMAX, CTXID and the context memory, `pack` is PACC and PCNT, `unpack` is UBUF
and UCNT, `out` is OUT and OUTCNT. -/
inductive Part where
  | qpend
  | qscale
  | ovr
  | vovf
  | pastend
  | low
  | range
  | code
  | model
  | pack
  | unpack
  | inptr
  | out
  | res
  deriving DecidableEq, Repr

/-- What `InitCoderModel` writes, beside MODE (R36). -/
def initialised : List Part := [.low, .range, .code, .qpend, .qscale, .model, .pack, .unpack]

/-- The parts each command may write. -/
def mayWrite : Instr → List Part
  | .nop | .halt | .ldl _ | .ldh _ | .cfg _ | .limit => []
  | .rdreg _ | .rdfreq .. => [.res]
  | .seek => [.inptr]
  | .encInit => initialised
  | .encFlush => [.low, .out]
  | .acEnc _ => [.low, .range, .out]
  | .ppmEnc _ => [.low, .range, .out, .model]
  | .pixEnc _ | .pixFlush => [.low, .range, .out, .model, .pack]
  | .decInit => .inptr :: .pastend :: initialised
  | .decEnd => [.qpend, .unpack]
  | .acDfreq _ => [.range, .qpend, .qscale, .res]
  | .acDupd => [.low, .range, .code, .qpend, .inptr, .pastend]
  | .ppmDec => [.low, .range, .code, .model, .inptr, .pastend, .ovr, .res]
  | .pixDec => [.low, .range, .code, .model, .inptr, .pastend, .ovr, .res, .unpack]
  | .varEnc => [.out]
  | .varDec => [.inptr, .pastend, .vovf, .res]

/-- Commands one after another, while each answers a next state. -/
def execAll : List Instr → State → Option State
  | [], s => some s
  | i :: is, s =>
    match exec i s with
    | .next t => execAll is t
    | .fault _ | .refused _ => none

/-! ### Streams -/

/-- `n` input reads in a row: the bytes, first read first, and the state after them. -/
def inReads : Nat → State → List Byte × State
  | 0, s => ([], s)
  | n + 1, s => ((inRead s).1 :: (inReads n (inRead s).2).1, (inReads n (inRead s).2).2)

/-- CODE after `CODE <- (CODE << 8) | b` for each byte in turn. -/
def codeAfter (code : Word) : List Byte → Word
  | [] => code
  | b :: bs => codeAfter ((code <<< 8) ||| b.setWidth 32) bs

/-- The number a varint's bytes stand for: 7 bits a byte, low group first. -/
def varintValue : List Byte → Nat
  | [] => 0
  | b :: bs => b.toNat % 128 + 128 * varintValue bs

/-! ### The renormalisation loop as the rule writes it -/

/-- The trigger of R172: `(LOW XOR (LOW + RANGE)) ≥ CODE_MAX`. -/
def triggered (low range : Word) : Prop := 2 ^ 24 - 1 ≤ (low ^^^ (low + range)).toNat

/-- `Renorm low range bytes low' range'`: the loop of R172 started at LOW, RANGE emits `bytes` and exits with
LOW', RANGE'. -/
inductive Renorm : Word → Word → List Byte → Word → Word → Prop where
  /-- Triggered with RANGE ≥ PROB_MAX: exit. -/
  | exit {low range : Word} : triggered low range → 2 ^ 14 ≤ range.toNat → Renorm low range [] low range
  /-- Triggered with a small RANGE: the underflow expansion, then the emission and the shift. -/
  | expand {low range low' range' : Word} {bytes : List Byte} : triggered low range → range.toNat < 2 ^ 14 →
      Renorm (low <<< 8) (BitVec.ofNat 32 (2 ^ 14 - low.toNat % 2 ^ 14) <<< 8) bytes low' range' →
      Renorm low range (low.extractLsb' 24 8 :: bytes) low' range'
  /-- Not triggered: the emission and the shift. -/
  | settled {low range low' range' : Word} {bytes : List Byte} : ¬ triggered low range →
      Renorm (low <<< 8) (range <<< 8) bytes low' range' →
      Renorm low range (low.extractLsb' 24 8 :: bytes) low' range'

/-! ### Invariants -/

/-- The coder (R41 item 1), with what a pending query owes: the divided RANGE times QSCALE is at most the RANGE
before the query, so it fits 32 bits and still ends within `2^32` (R179, R183, R185). -/
def CoderOk (s : State) : Prop :=
  (s.mode ≠ .idle → s.qpend = false → 2 ^ 14 ≤ s.range.toNat ∧ s.low.toNat + s.range.toNat ≤ 2 ^ 32) ∧
  (s.qpend = true → s.mode = .dec ∧ s.qscale.toNat ≤ 2 ^ 14 ∧ 1 ≤ s.range.toNat ∧
    s.range.toNat * s.qscale.toNat < 2 ^ 32 ∧ s.low.toNat + s.range.toNat * s.qscale.toNat ≤ 2 ^ 32)

/-- The order-0 table (R41 item 2, R232 item 1). -/
def Order0Ok (s : State) : Prop :=
  (∀ i, i ≤ 256 → 1 ≤ (s.order0.count i).toNat) ∧ s.order0.count 256 = 1 ∧
  s.order0.sum.toNat = s.order0.total ∧ 257 ≤ s.order0.sum.toNat ∧ s.order0.sum.toNat ≤ 2 ^ 14 - 1

/-- An order-2 table whose sum covers its counts and which, unless empty, has an escape count
(R41 item 3, R232 item 2). -/
def TableSound (t : Table) : Prop :=
  t.total ≤ t.sum.toNat ∧ (t.sum ≠ 0 → 1 ≤ (t.count 256).toNat)

/-- How many symbols 0..255 a table holds. -/
def heldSymbols (t : Table) : Nat := ((t.freq.toList.take 256).filter fun f => f ≠ 0).length

/-- An order-2 table as an encoder leaves it (R41 item 4, R232 items 2 to 4): the sum is exact, and it grew
past `PROB_MAX − 1` by at most 2 for each symbol held but one. -/
def TableExact (t : Table) : Prop :=
  t.sum.toNat = t.total ∧
  (t.sum ≠ 0 → 1 ≤ (t.count 256).toNat ∧ 1 ≤ heldSymbols t ∧ t.sum.toNat + 2 ≤ 2 ^ 14 - 1 + 2 * heldSymbols t)

/-- The order-2 tables: canonical, sound in every mode (R41 item 3), exact in ENC mode (item 4). -/
def TablesOk (s : State) : Prop :=
  ContextMem.wf s.tables ∧ (∀ c, TableSound (readTable c s)) ∧
  (s.mode = .enc → ∀ c, TableExact (readTable c s))

/-- No order-2 sum is about to wrap. On a stream no encoder produced a decoder's sums "have no bound below
2^32" (R232 item 4), and past a wrap the sum no longer covers the counts. -/
def SumsFarFromWrap (s : State) : Prop :=
  s.mode = .dec → ∀ c, (readTable c s).sum.toNat < 2 ^ 32 - 2

/-- The packer and the unpacker (R41 item 5); each is in use only in its own mode (R285). -/
def PackerOk (s : State) : Prop :=
  s.pcnt.toNat < indicesPerByte s ∧ s.ucnt.toNat < indicesPerByte s ∧
  s.pacc.toNat < 2 ^ (s.pcnt.toNat * bitsPerIndex s) ∧
  (s.pcnt ≠ 0 → s.mode = .enc) ∧ (s.ucnt ≠ 0 → s.mode = .dec)

/-- The fault registers (R24, R281): zero until a fault, and a cause exactly in FAULT. -/
def FaultOk (s : State) : Prop :=
  s.cause.toNat ≤ 6 ∧ (s.rstate = .fault ↔ s.cause ≠ 0) ∧
  (s.rstate ≠ .fault → s.fpc = 0 ∧ s.fcmd = 0)

/-- The launch parameters (R12, R23, R324): representable lengths; in a run PC is at most `N` and INLEN reads
`IN_LEN`. -/
def LaunchOk (s : State) : Prop :=
  s.cmd.length < 2 ^ 32 ∧ s.inp.length < 2 ^ 32 ∧
  (s.rstate = .run → s.pc.toNat ≤ s.cmd.length ∧ s.inlen.toNat = s.inp.length)

/-- What every run keeps. -/
def Inv (s : State) : Prop :=
  CoderOk s ∧ Order0Ok s ∧ TablesOk s ∧ PackerOk s ∧ FaultOk s ∧ LaunchOk s

/-- The block fetches and runs word `w` in this step: it is running, out of reset, the host makes no move, and
`CMD[PC] = w`. -/
def Fetches (s : State) (w : Word) : Prop :=
  s.rstate = .run ∧ s.resetting = false ∧ hostTurn s = none ∧ s.cmd[s.pc.toNat]? = some w

/-- In state `s` the step refuses word `w` as illegal: it enters the fault of cause 1 and does nothing else
(R95, R96, `60_exceptions.md` R281). -/
def EntersIllegal (s : State) (w : Word) : Prop :=
  step s = .next { dropTurn s with cause := 1, fpc := s.pc, fcmd := w, rstate := .fault }

/-- CODE lies in the share of the interval LOW, RANGE that table `t` gives index `i`: `[LOW + lp·r, LOW + hp·r)` with
`r = RANGE / sum` (`42_range_coder.md` R171, R186). -/
def InShare (t : Table) (i : Nat) (low range code : Word) : Prop :=
  low.toNat + t.cumLo i * (range.toNat / t.sum.toNat) ≤ code.toNat ∧
  code.toNat < low.toNat + (t.cumLo i + (t.count i).toNat) * (range.toNat / t.sum.toNat)

/-- The escape step of a decoder in context table `t` (`43_ppm_model.md` R228): the interval is narrowed to the
escape's share and renormalised to `low'`, `range'`, which takes `bytes` into CODE. -/
def EscapeStep (t : Table) (s : State) (bytes : List Byte) (low' range' : Word) : Prop :=
  ∃ (bs : List Byte) (r : State),
    Renorm (s.low + BitVec.ofNat 32 (t.cumLo 256 * (s.range.toNat / t.sum.toNat)))
      (BitVec.ofNat 32 (s.range.toNat / t.sum.toNat * (t.count 256).toNat)) bs low' range' ∧
    inReads bs.length s = (bytes, r)

/-- The decoder's CODE stands where an encoder of `sym` leaves it (R227, R228): in the symbol's share of the table
that codes it, and where that is the order-0 table after an escape, first in the escape's share. -/
def CodeSelects (sym : Byte) (d : State) : Prop :=
  ((readTable (ctxIndex d) d).sum = 0 → InShare d.order0 sym.toNat d.low d.range d.code) ∧
  ((readTable (ctxIndex d) d).sum ≠ 0 → (readTable (ctxIndex d) d).count sym.toNat ≠ 0 →
    InShare (readTable (ctxIndex d) d) sym.toNat d.low d.range d.code) ∧
  ((readTable (ctxIndex d) d).sum ≠ 0 → (readTable (ctxIndex d) d).count sym.toNat = 0 →
    InShare (readTable (ctxIndex d) d) 256 d.low d.range d.code ∧
    ∃ (bytes : List Byte) (low' range' : Word), EscapeStep (readTable (ctxIndex d) d) d bytes low' range' ∧
      InShare d.order0 sym.toNat low' range' (codeAfter d.code bytes))

/-- The coder and model registers that an encoder and a decoder keep equal (`42_range_coder.md` R170,
`43_ppm_model.md` R228). -/
def SameModel (a b : State) : Prop :=
  a.low = b.low ∧ a.range = b.range ∧ a.freqmax = b.freqmax ∧ a.ctxid = b.ctxid ∧
  a.tables = b.tables ∧ a.order0 = b.order0 ∧ a.palsz = b.palsz

end Sys2Proof.Machine
end

