-- ==== Sys2Proof/Certificates/Slice0/Obligations.lean ====
section
/-! DEFINITION. The statements for the provers. Each says in its docstring which rules of the spec it formalises,
and where it rests on a choice of the model, which log entry. -/

open Sys2Proof Sys2Proof.Machine

/-! ### Encoding -/

/-- Every well-formed command is decoded from its own word, with every operand as it was (`30_encoding.md`
R90 to R94, R97). -/
def Obligations.DecodeOfEncodeIsTheCommand : Prop :=
  ∀ i : Instr, i.wf = true → decode (encode i) = .ok i

/-- A word that decodes is the word of what it decodes to, and that is well formed: no bit of a word is
ignored, and no two words are one command (R91, R93, R97). -/
def Obligations.EncodeOfDecodeIsTheWord : Prop :=
  ∀ (w : Word) (i : Instr), decode w = .ok i → i.wf = true ∧ encode i = w

/-- R95, R96: the words with an undefined opcode, a reserved bit set or a field outside R93 are exactly the
words that do not decode, and executing one raises E_ILLEGAL before any other check, whatever the MODE and the
sequencing state, and changes nothing else. -/
def Obligations.IllegalWordsRaiseIllegal : Prop :=
  (∀ w : Word, (∃ i, decode w = .ok i) ↔ LegalWord w) ∧
  ∀ (s : State) (w : Word), Fetches s w → ¬ LegalWord w → EntersIllegal s w

/-- Words written out from the formats of R91 and the examples of R98 and `40_control.md` decode to their
commands, as numbers and as bytes most significant first (`20_memory.md` R69). -/
def Obligations.WrittenWordsDecode : Prop :=
  decode 0x10000000 = .ok .encInit ∧
  decode 0x13000041 = .ok (.ppmEnc 0x41) ∧
  decode 0x12004000 = .ok (.acEnc 16384) ∧
  decode 0x05000008 = .ok (.rdreg 8) ∧
  decode 0x06010003 = .ok (.rdfreq false false 256 3) ∧
  decode 0x06060000 = .ok (.rdfreq true true 0 0) ∧
  decode 0x20000000 = .ok .varEnc ∧
  decodeBytes [0x14, 0x00, 0x00, 0x1F, 0xAA] = .ok (.pixEnc 31, [0xAA])

/-! ### The step -/

/-- The step runs the command that `CMD[PC]` decodes to (`70_reset_and_hazards.md` R327); all it adds is that
the model's host schedule loses its slot (log entry 1). -/
def Obligations.StepRunsTheDecodedCommand : Prop :=
  ∀ (s : State) (w : Word) (i : Instr), Fetches s w → decode w = .ok i → step s = exec i (dropTurn s)

/-- A step that runs no command (R327, R320, `60_exceptions.md` R299): at the end of the list the run is DONE;
outside RUN, and during reset, the block executes nothing; and the host's assertion of reset, in any state, puts the
block into reset. That the registers keep their values from there until reset completes is the model's choice
(DESIGN CHOICE, log entry 12). -/
def Obligations.StepWithoutACommand : Prop :=
  (∀ s : State, hostTurn s = none →
    (s.resetting = false → s.rstate = .run → s.pc.toNat = s.cmd.length →
      step s = .next { dropTurn s with rstate := .done }) ∧
    (s.resetting = true ∨ s.rstate ≠ .run → step s = .next (dropTurn s))) ∧
  (∀ s : State, hostTurn s = some .assertReset → step s = .next { dropTurn s with resetting := true })

/-- A word placed at PC is the one the next step fetches and runs (log entry 2: how a program comes to run). -/
def Obligations.PlacedWordRunsNext : Prop :=
  ∀ (s : State) (w : Word) (i : Instr), decode w = .ok i →
    decodeTableWord 32 w.toNat = some i ∧
    Fetches (s.withFetchWord 32 w.toNat) w ∧
    step (s.withFetchWord 32 w.toNat) = exec i (dropTurn (s.withFetchWord 32 w.toNat))

/-! ### Control and register access -/

/-- R120, R122, R123: NOP changes nothing but PC; LDL and LDH load one half of OPR and keep the other; their
words; and E_ILLEGAL for the immediates the rules name. -/
def Obligations.NopLdlLdhFollowTheirRules : Prop :=
  (∀ s : State, exec .nop s = .next { s with pc := s.pc + 1 }) ∧
  (∀ (s : State) (u16 : BitVec 16), ∃ v : Word, exec (.ldl u16) s = .next { s with opr := v, pc := s.pc + 1 } ∧
    v.extractLsb' 0 16 = u16 ∧ v.extractLsb' 16 16 = s.opr.extractLsb' 16 16) ∧
  (∀ (s : State) (u16 : BitVec 16), ∃ v : Word, exec (.ldh u16) s = .next { s with opr := v, pc := s.pc + 1 } ∧
    v.extractLsb' 16 16 = u16 ∧ v.extractLsb' 0 16 = s.opr.extractLsb' 0 16) ∧
  encode .nop = 0 ∧
  (∀ u16 : BitVec 16, (encode (.ldl u16)).toNat = 0x02000000 + u16.toNat ∧
    (encode (.ldh u16)).toNat = 0x03000000 + u16.toNat) ∧
  (∀ (s : State) (w : Word), Fetches s w → w.toNat / 2 ^ 24 = 0 → w.toNat % 2 ^ 24 ≠ 0 → EntersIllegal s w) ∧
  (∀ (s : State) (w : Word), Fetches s w → w.toNat / 2 ^ 24 = 2 ∨ w.toNat / 2 ^ 24 = 3 →
    w.toNat / 2 ^ 16 % 2 ^ 8 ≠ 0 → EntersIllegal s w)

/-- R121, R127, R128: HALT, SEEK and LIMIT complete in every state and change only RSTATE, INPTR and INLIM; after
HALT no further command is fetched; their words; and E_ILLEGAL for a non-zero immediate. -/
def Obligations.HaltSeekLimitFollowTheirRules : Prop :=
  (∀ s : State,
    exec .halt s = .next { s with rstate := .done, pc := s.pc + 1 } ∧
    exec .seek s = .next { s with inptr := s.opr, pc := s.pc + 1 } ∧
    exec .limit s = .next { s with inlim := s.opr, pc := s.pc + 1 }) ∧
  (∀ s t : State, exec .halt s = .next t → hostTurn t = none → step t = .next (dropTurn t)) ∧
  encode .halt = 0x01000000 ∧ encode .seek = 0x07000000 ∧ encode .limit = 0x08000000 ∧
  (∀ (s : State) (w : Word), Fetches s w → w.toNat / 2 ^ 24 ∈ [1, 7, 8] → w.toNat % 2 ^ 24 ≠ 0 → EntersIllegal s w)

/-- CFG in IDLE writes PALSZ and nothing else (R124). -/
def Obligations.CfgWritesPalszInIdle : Prop :=
  ∀ (s : State) (u8 : BitVec 8), s.mode = .idle →
    exec (.cfg u8) s = .next { s with palsz := u8, pc := s.pc + 1 }

/-- R29, with the widths of R260: P, BPI and IPB are functions of PALSZ, and the CFG register holds
them at their places with every other bit 0. -/
def Obligations.PaletteQuantitiesFollowPalsz : Prop :=
  ∀ s : State,
    paletteSize s = (if s.palsz.toNat = 0 then 256 else s.palsz.toNat) ∧
    max (paletteSize s) 2 ≤ 2 ^ bitsPerIndex s ∧
    (∀ b, max (paletteSize s) 2 ≤ 2 ^ b → bitsPerIndex s ≤ b) ∧
    1 ≤ bitsPerIndex s ∧ bitsPerIndex s ≤ 8 ∧
    indicesPerByte s = 8 / bitsPerIndex s ∧ indicesPerByte s ∈ [8, 4, 2, 1] ∧
    (readReg 5 s).toNat = s.palsz.toNat + 2 ^ 8 * bitsPerIndex s + 2 ^ 12 * indicesPerByte s
      + 2 ^ 16 * paletteSize s

/-- RDREG pushes the register of its number as R39 lists them, read before the command changes anything, and
changes nothing else (R125). -/
def Obligations.RdregPushesTheRegister : Prop :=
  ∀ (s : State) (reg : BitVec 5), reg.toNat ≤ 20 → ∃ v : Word,
    exec (.rdreg reg) s = .next { s with res := s.res ++ [v], pc := s.pc + 1 } ∧
    (reg = 0 → v = 0x50455007) ∧ (reg = 2 → v = s.cause) ∧ (reg = 3 → v = s.fpc) ∧
    (reg = 4 → v = s.fcmd) ∧ (reg = 6 → v = s.opr) ∧ (reg = 7 → v = s.low) ∧
    (reg = 8 → v = s.range) ∧ (reg = 9 → v = s.code) ∧ (reg = 10 → v = s.freqmax) ∧
    (reg = 11 → v.toNat = s.ctxid.toNat % 2 ^ 32) ∧ (reg = 12 → v.toNat = s.ctxid.toNat / 2 ^ 32) ∧
    (reg = 13 → v.toNat = 2 ^ 8 * s.pcnt.toNat + s.pacc.toNat) ∧
    (reg = 14 → v.toNat = 2 ^ 8 * s.ucnt.toNat + s.ubuf.toNat) ∧
    (reg = 15 → v.toNat = s.qscale.toNat) ∧ (reg = 16 → v = s.inptr) ∧ (reg = 17 → v = s.inlim) ∧
    (reg = 18 → v = s.inlen) ∧ (reg = 19 → v = s.outcnt) ∧ (reg = 20 → v = s.pc) ∧
    (reg = 1 → v = statusWord s) ∧ (reg = 5 → v = cfgWord s)

/-- R25: STATUS is assembled from RSTATE, MODE, QPEND, OVR, VOVF and PASTEND; bits not listed read 0. -/
def Obligations.StatusIsAssembledFromItsFields : Prop :=
  ∀ s : State,
    (statusWord s).extractLsb' 0 2 = (match s.rstate with | .ready => 0 | .run => 1 | .done => 2 | .fault => 3) ∧
    (statusWord s).extractLsb' 2 2 = (match s.mode with | .idle => 0 | .enc => 1 | .dec => 2) ∧
    (statusWord s).getLsbD 4 = s.qpend ∧ (statusWord s).getLsbD 5 = s.ovr ∧
    (statusWord s).getLsbD 6 = s.vovf ∧ (statusWord s).getLsbD 7 = s.pastend ∧
    (statusWord s).extractLsb' 8 24 = 0

/-- RDFREQ pushes the count or the sum it selects, and changes nothing else (R126). -/
def Obligations.RdfreqPushesTheSelectedCount : Prop :=
  ∀ (s : State) (S O : Bool) (i : BitVec 9) (c : BitVec 8),
    i.toNat ≤ 256 → (O = true → c = 0) → (S = true → i = 0) →
    exec (.rdfreq S O i c) s = .next { s with
      res := s.res ++ [match S, O with
        | true, true => s.order0.sum
        | true, false => (readTable c s).sum
        | false, true => s.order0.count i.toNat
        | false, false => (readTable c s).count i.toNat]
      pc := s.pc + 1 }

/-! ### Streams and varint -/

/-- R62: `InRead` returns `IN[INPTR]` before `min(IN_LEN, INLIM)`, else 0 with PASTEND set; INPTR advances and
saturates; nothing else changes. -/
def Obligations.InReadFollowsItsRule : Prop :=
  ∀ s : State,
    (∀ b, s.inptr.toNat < s.inp.length → s.inptr.toNat < s.inlim.toNat → s.inp[s.inptr.toNat]? = some b →
      ∃ p : Word, inRead s = (b, { s with inptr := p }) ∧
        p.toNat = min (s.inptr.toNat + 1) (2 ^ 32 - 1)) ∧
    (s.inp.length ≤ s.inptr.toNat ∨ s.inlim.toNat ≤ s.inptr.toNat →
      ∃ p : Word, inRead s = (0, { s with inptr := p, pastend := true }) ∧
        p.toNat = min (s.inptr.toNat + 1) (2 ^ 32 - 1))

/-- VAR_ENC appends bytes that stand for OPR, 7 bits a byte, low group first, the continuation bit on all but
the last, as many as R151 says, and changes nothing else (R150, R151). -/
def Obligations.VarEncAppendsTheMinimalVarint : Prop :=
  ∀ s : State, ∃ (bs : List Byte) (last : Byte),
    exec .varEnc s = .next { s with
      out := s.out ++ (bs ++ [last]), outcnt := s.outcnt + BitVec.ofNat 32 (bs.length + 1), pc := s.pc + 1 } ∧
    (∀ b ∈ bs, 128 ≤ b.toNat) ∧ last.toNat < 128 ∧ varintValue (bs ++ [last]) = s.opr.toNat ∧
    bs.length + 1 = (if s.opr.toNat < 2 ^ 7 then 1 else if s.opr.toNat < 2 ^ 14 then 2
      else if s.opr.toNat < 2 ^ 21 then 3 else if s.opr.toNat < 2 ^ 28 then 4 else 5)

/-- VAR_DEC reads bytes up to the first without the continuation bit, at most five, pushes their value with the
bits beyond bit 31 dropped, and sets VOVF exactly where bits were dropped or the fifth byte asked for a sixth
(R152). It completes in every state. -/
def Obligations.VarDecReadsAtMostFiveBytes : Prop :=
  ∀ s : State, ∃ (bs : List Byte) (last : Byte) (t : State),
    inReads (bs.length + 1) s = (bs ++ [last], t) ∧ bs.length ≤ 4 ∧
    (∀ b ∈ bs, 128 ≤ b.toNat) ∧ (last.toNat < 128 ∨ bs.length = 4) ∧
    exec .varDec s = .next { t with
      res := s.res ++ [BitVec.ofNat 32 (varintValue (bs ++ [last]))]
      vovf := s.vovf || (decide (bs.length = 4) && decide (16 ≤ last.toNat))
      pc := s.pc + 1 }

/-- R153: VAR_DEC applied to the bytes VAR_ENC emits for `v` pushes `v`, consumes exactly those bytes and leaves
VOVF unchanged: `e` encodes, and in `d` the bytes `e` gained stand in IN from INPTR on, all before the end. -/
def Obligations.VarintRoundTrip : Prop :=
  ∀ (e e' d : State) (bs : List Byte), exec .varEnc e = .next e' → e'.out = e.out ++ bs →
    (∀ k (h : k < bs.length), d.inp[d.inptr.toNat + k]? = some bs[k]) →
    d.inptr.toNat + bs.length ≤ d.inlim.toNat →
    exec .varDec d = .next { d with
      res := d.res ++ [e.opr], inptr := d.inptr + BitVec.ofNat 32 bs.length, pc := d.pc + 1 }

/-! ### Range coder -/

/-- ENC_INIT completes in every state with the coder, the model and the packer as R36 initialises them, every
order-2 count and sum 0, every order-0 count 1, and everything else as it was (R176). -/
def Obligations.EncInitInitialises : Prop :=
  ∀ s : State, ∃ t : State, exec .encInit s = .next t ∧
    t = { s with
      mode := .enc, low := 0, range := 0xFFFFFFFF, code := 0, qpend := false, qscale := 0, freqmax := 128
      ctxid := 0, tables := t.tables, order0 := t.order0, pacc := 0, pcnt := 0, ubuf := 0, ucnt := 0
      pc := s.pc + 1 } ∧
    (∀ (c : BitVec 8) (i : Nat), (readTable c t).sum = 0 ∧ (readTable c t).count i = 0) ∧
    (∀ i, i ≤ 256 → t.order0.count i = 1) ∧ t.order0.sum = 257

/-- DEC_INIT completes in every state: it initialises as ENC_INIT does but into DEC, and CODE takes four input
bytes, the first the most significant (R180). -/
def Obligations.DecInitLoadsFourBytes : Prop :=
  ∀ s : State, ∃ (b0 b1 b2 b3 : Byte) (r t : State), inReads 4 s = ([b0, b1, b2, b3], r) ∧
    exec .decInit s = .next t ∧
    t = { r with
      mode := .dec, low := 0, range := 0xFFFFFFFF, code := t.code, qpend := false, qscale := 0, freqmax := 128
      ctxid := 0, tables := t.tables, order0 := t.order0, pacc := 0, pcnt := 0, ubuf := 0, ucnt := 0
      pc := s.pc + 1 } ∧
    t.code.toNat = b0.toNat * 2 ^ 24 + b1.toNat * 2 ^ 16 + b2.toNat * 2 ^ 8 + b3.toNat ∧
    (∀ (c : BitVec 8) (i : Nat), (readTable c t).sum = 0 ∧ (readTable c t).count i = 0) ∧
    (∀ i, i ≤ 256 → t.order0.count i = 1) ∧ t.order0.sum = 257

/-- ENC_FLUSH in ENC with no partial packed byte writes LOW's four bytes from the most significant, leaves
LOW = 0 and MODE = IDLE, and nothing else (R177). -/
def Obligations.EncFlushWritesLow : Prop :=
  ∀ s : State, s.mode = .enc → s.pcnt = 0 →
    exec .encFlush s = .next { s with
      out := s.out ++ [s.low.extractLsb' 24 8, s.low.extractLsb' 16 8, s.low.extractLsb' 8 8, s.low.extractLsb' 0 8]
      outcnt := s.outcnt + 4, low := 0, mode := .idle, pc := s.pc + 1 }

/-- AC_ENC with a legal triple in ENC codes it: LOW and RANGE take the source's step, the loop of R172 as the
relation `Renorm` writes it renormalises them and emits its bytes, and nothing else changes (R171, R178). -/
def Obligations.AcEncCodesTheTriple : Prop :=
  ∀ (s : State) (u16 : BitVec 16), s.mode = .enc → CoderOk s →
    oprLow s < oprHigh s → oprHigh s ≤ u16.toNat → u16.toNat ≤ 16384 →
    ∃ (bs : List Byte) (low' range' : Word),
      Renorm (s.low + BitVec.ofNat 32 (oprLow s * (s.range.toNat / u16.toNat)))
        (BitVec.ofNat 32 (s.range.toNat / u16.toNat * (oprHigh s - oprLow s))) bs low' range' ∧
      exec (.acEnc u16) s = .next { s with
        low := low', range := range', out := s.out ++ bs
        outcnt := s.outcnt + BitVec.ofNat 32 bs.length, pc := s.pc + 1 }

/-- The renormalisation loops end after at most three emissions or reads from EVERY state with RANGE ≥ 1, with
RANGE ≥ PROB_MAX; where `LOW + RANGE ≤ 2^32` held it still does; and a second call changes nothing (R175). -/
def Obligations.RenormalisationEndsWithinThree : Prop :=
  ∀ s : State, s.range ≠ 0 →
    (∃ (bs : List Byte) (t : State), renormEnc s = .ok t ∧ bs.length ≤ 3 ∧ t.out = s.out ++ bs ∧
      2 ^ 14 ≤ t.range.toNat ∧
      (s.low.toNat + s.range.toNat ≤ 2 ^ 32 → t.low.toNat + t.range.toNat ≤ 2 ^ 32) ∧
      renormEnc t = .ok t) ∧
    (∃ (n : Nat) (t : State), renormDec s = .ok t ∧ n ≤ 3 ∧ t.inptr = (inReads n s).2.inptr ∧
      2 ^ 14 ≤ t.range.toNat ∧
      (s.low.toNat + s.range.toNat ≤ 2 ^ 32 → t.low.toNat + t.range.toNat ≤ 2 ^ 32) ∧
      renormDec t = .ok t)

/-- Where the underflow expansion runs, LOW is no multiple of PROB_MAX, and the new RANGE is at least 1, below
PROB_MAX and no larger than the old one (R174, `90_conflicts.md` C4). -/
def Obligations.UnderflowExpansionShrinksRange : Prop :=
  ∀ low range : Word, triggered low range → range.toNat < 2 ^ 14 →
    low.toNat % 2 ^ 14 ≠ 0 ∧
    ∃ range' : Word, renormTest low range = some range' ∧ 1 ≤ range'.toNat ∧ range'.toNat < 2 ^ 14 ∧
      range'.toNat ≤ range.toNat

/-- AC_DFREQ with no query pending and a legal scale pushes `(CODE − LOW) / (RANGE / scale)`, leaves RANGE divided,
and records the query (R179, R183). -/
def Obligations.AcDfreqPushesTheQuery : Prop :=
  ∀ (s : State) (u16 : BitVec 16), s.mode = .dec → s.qpend = false → CoderOk s →
    1 ≤ u16.toNat → u16.toNat ≤ 16384 → ∃ f r : Word,
    exec (.acDfreq u16) s = .next { s with
      range := r, qpend := true, qscale := u16, res := s.res ++ [f], pc := s.pc + 1 } ∧
    r.toNat = s.range.toNat / u16.toNat ∧ f.toNat = (s.code - s.low).toNat / r.toNat

/-- AC_DUPD with a query pending and an interval inside its scale narrows LOW and RANGE, reads as many bytes into
CODE as the encoder's loop would write, and clears the query (R182, R184). -/
def Obligations.AcDupdCompletesTheQuery : Prop :=
  ∀ s : State, s.qpend = true → CoderOk s → oprLow s < oprHigh s → oprHigh s ≤ s.qscale.toNat →
    ∃ (bs bytes : List Byte) (low' range' : Word) (t : State),
      Renorm (s.low + BitVec.ofNat 32 (s.range.toNat * oprLow s))
        (BitVec.ofNat 32 (s.range.toNat * (oprHigh s - oprLow s))) bs low' range' ∧
      inReads bs.length s = (bytes, t) ∧
      exec .acDupd s = .next { t with
        low := low', range := range', code := codeAfter s.code bytes, qpend := false, pc := s.pc + 1 }

/-- R181: DEC_END in DEC returns to IDLE, abandons a pending query, discards the unpacker and leaves everything else
as it was; outside DEC it raises E_MODE; its word; and E_ILLEGAL for a non-zero immediate. -/
def Obligations.DecEndFollowsItsRule : Prop :=
  (∀ s : State, s.mode = .dec →
    exec .decEnd s = .next { s with mode := .idle, qpend := false, ubuf := 0, ucnt := 0, pc := s.pc + 1 }) ∧
  (∀ s : State, s.mode ≠ .dec →
    exec .decEnd s = .next { s with cause := 2, fpc := s.pc, fcmd := 0x19000000, rstate := .fault }) ∧
  encode .decEnd = 0x19000000 ∧
  (∀ (s : State) (w : Word), Fetches s w → w.toNat / 2 ^ 24 = 0x19 → w.toNat % 2 ^ 24 ≠ 0 → EntersIllegal s w)

/-- R170, R186 for one symbol: a decoder whose LOW and RANGE equal an encoder's keeps them equal by AC_DFREQ and
AC_DUPD with the encoder's triple, and where CODE lies in the symbol's share of the interval the query value
lies in `[low_p, high_p)`. -/
def Obligations.DecoderTracksEncoder : Prop :=
  ∀ (e d : State) (u16 : BitVec 16), e.mode = .enc → d.mode = .dec → d.qpend = false →
    CoderOk e → CoderOk d → e.low = d.low → e.range = d.range → e.opr = d.opr →
    oprLow e < oprHigh e → oprHigh e ≤ u16.toNat → u16.toNat ≤ 16384 →
    ∃ (e' d1 d2 : State) (f : Word), exec (.acEnc u16) e = .next e' ∧ exec (.acDfreq u16) d = .next d1 ∧
      exec .acDupd d1 = .next d2 ∧ d2.low = e'.low ∧ d2.range = e'.range ∧ d1.res = d.res ++ [f] ∧
      (d.low.toNat + oprLow d * (d.range.toNat / u16.toNat) ≤ d.code.toNat →
        d.code.toNat < d.low.toNat + oprHigh d * (d.range.toNat / u16.toNat) →
        oprLow d ≤ f.toNat ∧ f.toNat < oprHigh d)

/-! ### PPM model -/

/-- UPDATE of a table whose sum and count do not wrap (R224, R225): count `s` and the sum grow by 2; if the count
reaches FREQMAX or the sum PROB_MAX, FREQMAX grows by `(256 − P) / 2`, every count becomes its half rounded up and
the sum is recomputed; otherwise FREQMAX and every other count stay. -/
def Obligations.UpdateAddsTwoOrHalves : Prop :=
  ∀ (st : State) (t : Table) (s : Nat), s ≤ 256 → (t.count s).toNat + 2 < 2 ^ 32 → t.sum.toNat + 2 < 2 ^ 32 →
    (if st.freqmax.toNat ≤ (t.count s).toNat + 2 ∨ 2 ^ 14 ≤ t.sum.toNat + 2 then
      (freqmaxUpdated t s st).toNat = (st.freqmax.toNat + (256 - paletteSize st) / 2) % 2 ^ 32 ∧
      (∀ i, i ≤ 256 → ((t.updated s st.freqmax).count i).toNat =
        ((t.count i).toNat + (if i = s then 2 else 0) + 1) / 2) ∧
      (t.updated s st.freqmax).sum.toNat = (t.updated s st.freqmax).total % 2 ^ 32
    else
      freqmaxUpdated t s st = st.freqmax ∧
      (∀ i, i ≤ 256 → ((t.updated s st.freqmax).count i).toNat =
        (t.count i).toNat + (if i = s then 2 else 0)) ∧
      (t.updated s st.freqmax).sum.toNat = t.sum.toNat + 2)

/-- NoteNovel and the escape increment (R223, R227): the first visit sets the escape count and the sum to 1; the
symbol's count is ASSIGNED 1 and the sum grows by 1; the escape increment adds 1 to both, with no rescale. -/
def Obligations.NovelAssignsOneAndEscapeAddsOne : Prop :=
  ∀ (t : Table) (s : Nat), s ≤ 255 →
    ((t.novel s).sum = if t.sum = 0 then 2 else t.sum + 1) ∧
    (∀ i, i ≤ 256 → (t.novel s).count i = if i = s then 1 else if i = 256 ∧ t.sum = 0 then 1 else t.count i) ∧
    t.escaped.sum = t.sum + 1 ∧
    (∀ i, i ≤ 256 → t.escaped.count i = if i = 256 then t.count i + 1 else t.count i)

/-- PPM_ENC of a symbol its context holds (R221, R222, R227, R230): one coder step with the context's cumulative
counts, then UPDATE of that context alone. -/
def Obligations.PpmEncHitCodesFromTheContext : Prop :=
  ∀ (s : State) (sym : Byte), s.mode = .enc → s.pcnt = 0 → CoderOk s → ContextMem.wf s.tables →
    TableExact (readTable (ctxIndex s) s) → (readTable (ctxIndex s) s).sum ≠ 0 →
    (readTable (ctxIndex s) s).count sym.toNat ≠ 0 →
    (readTable (ctxIndex s) s).sum.toNat ≤ s.range.toNat →
    ∃ (bs : List Byte) (t : State), exec (.ppmEnc sym) s = .next t ∧
      Renorm
        (s.low + BitVec.ofNat 32 ((readTable (ctxIndex s) s).cumLo sym.toNat *
          (s.range.toNat / (readTable (ctxIndex s) s).sum.toNat)))
        (BitVec.ofNat 32 (s.range.toNat / (readTable (ctxIndex s) s).sum.toNat *
          ((readTable (ctxIndex s) s).count sym.toNat).toNat)) bs t.low t.range ∧
      t = { s with
        low := t.low, range := t.range, tables := t.tables
        freqmax := freqmaxUpdated (readTable (ctxIndex s) s) sym.toNat s
        ctxid := (s.ctxid <<< 8) ||| sym.setWidth 64
        out := s.out ++ bs, outcnt := s.outcnt + BitVec.ofNat 32 bs.length, pc := s.pc + 1 } ∧
      readTable (ctxIndex s) t = (readTable (ctxIndex s) s).updated sym.toNat s.freqmax ∧
      ∀ d, d ≠ ctxIndex s → readTable d t = readTable d s

/-- PPM_ENC of a symbol its context does not hold (R221 to R224, R227, R230): from a non-empty context the escape
is coded and counted first; then the symbol is coded from the order-0 table, noted in the context, and the
order-0 table alone is UPDATEd. -/
def Obligations.PpmEncNovelCodesFromOrder0 : Prop :=
  ∀ (s : State) (sym : Byte), s.mode = .enc → s.pcnt = 0 → CoderOk s → Order0Ok s → ContextMem.wf s.tables →
    TableExact (readTable (ctxIndex s) s) → (readTable (ctxIndex s) s).count sym.toNat = 0 →
    (readTable (ctxIndex s) s).sum.toNat ≤ s.range.toNat →
    ∃ (bs1 bs2 : List Byte) (low1 range1 : Word) (t : State), exec (.ppmEnc sym) s = .next t ∧
      ((readTable (ctxIndex s) s).sum = 0 → bs1 = [] ∧ low1 = s.low ∧ range1 = s.range) ∧
      ((readTable (ctxIndex s) s).sum ≠ 0 → Renorm
        (s.low + BitVec.ofNat 32 ((readTable (ctxIndex s) s).cumLo 256 *
          (s.range.toNat / (readTable (ctxIndex s) s).sum.toNat)))
        (BitVec.ofNat 32 (s.range.toNat / (readTable (ctxIndex s) s).sum.toNat *
          ((readTable (ctxIndex s) s).count 256).toNat)) bs1 low1 range1) ∧
      Renorm
        (low1 + BitVec.ofNat 32 (s.order0.cumLo sym.toNat * (range1.toNat / s.order0.sum.toNat)))
        (BitVec.ofNat 32 (range1.toNat / s.order0.sum.toNat * (s.order0.count sym.toNat).toNat))
        bs2 t.low t.range ∧
      t = { s with
        low := t.low, range := t.range, tables := t.tables
        order0 := s.order0.updated sym.toNat s.freqmax
        freqmax := freqmaxUpdated s.order0 sym.toNat s
        ctxid := (s.ctxid <<< 8) ||| sym.setWidth 64
        out := s.out ++ bs1 ++ bs2, outcnt := s.outcnt + BitVec.ofNat 32 (bs1.length + bs2.length)
        pc := s.pc + 1 } ∧
      readTable (ctxIndex s) t = (if (readTable (ctxIndex s) s).sum = 0 then readTable (ctxIndex s) s
        else (readTable (ctxIndex s) s).escaped).novel sym.toNat ∧
      ∀ d, d ≠ ctxIndex s → readTable d t = readTable d s

/-- PPM_DEC completes wherever its checks pass, the tables cover their counts and the context's sum does not
exceed RANGE, on ANY input (R228, R231, `60_exceptions.md` R288): it pushes one symbol 0..255, shifts it into
CTXID, and touches no other register and no other context. -/
def Obligations.PpmDecPushesASymbol : Prop :=
  ∀ s : State, s.mode = .dec → s.qpend = false → s.ucnt = 0 → CoderOk s → Order0Ok s → ContextMem.wf s.tables →
    TableSound (readTable (ctxIndex s) s) → (readTable (ctxIndex s) s).sum.toNat ≤ s.range.toNat →
    ∃ (sym : Byte) (n : Nat) (t : State), exec .ppmDec s = .next t ∧ n ≤ 6 ∧
      t = { s with
        low := t.low, range := t.range, code := t.code, tables := t.tables, order0 := t.order0
        freqmax := t.freqmax, ovr := t.ovr, inptr := (inReads n s).2.inptr, pastend := (inReads n s).2.pastend
        ctxid := (s.ctxid <<< 8) ||| sym.setWidth 64, res := s.res ++ [sym.setWidth 32], pc := s.pc + 1 } ∧
      (s.ovr = true → t.ovr = true) ∧
      ∀ d, d ≠ ctxIndex s → readTable d t = readTable d s

/-- PPM_DEC in an empty context decodes from the order-0 table (R226, R228): the symbol is the one whose interval
holds the query value, or 255 with OVR set where no running total of 0..255 exceeds it; LOW, RANGE, CODE and the reads
are those of one coder step with the symbol's interval (R182); then the symbol is noted in the context and the order-0
table is UPDATEd. -/
def Obligations.PpmDecFromAnEmptyContext : Prop :=
  ∀ s : State, s.mode = .dec → s.qpend = false → s.ucnt = 0 → CoderOk s → Order0Ok s → ContextMem.wf s.tables →
    (readTable (ctxIndex s) s).sum = 0 → ∃ (sym : Byte) (bs bytes : List Byte) (r t : State),
      exec .ppmDec s = .next t ∧
      t.res = s.res ++ [sym.setWidth 32] ∧
      ((s.order0.cumLo sym.toNat ≤ (s.code - s.low).toNat / (s.range.toNat / s.order0.sum.toNat) ∧
          (s.code - s.low).toNat / (s.range.toNat / s.order0.sum.toNat) <
            s.order0.cumLo sym.toNat + (s.order0.count sym.toNat).toNat ∧ t.ovr = s.ovr) ∨
        (s.order0.cumLo 256 ≤ (s.code - s.low).toNat / (s.range.toNat / s.order0.sum.toNat) ∧
          sym = 255 ∧ t.ovr = true)) ∧
      Renorm (s.low + BitVec.ofNat 32 (s.order0.cumLo sym.toNat * (s.range.toNat / s.order0.sum.toNat)))
        (BitVec.ofNat 32 (s.range.toNat / s.order0.sum.toNat * (s.order0.count sym.toNat).toNat)) bs t.low t.range ∧
      inReads bs.length s = (bytes, r) ∧
      t = { s with
        low := t.low, range := t.range, code := codeAfter s.code bytes, tables := t.tables
        order0 := s.order0.updated sym.toNat s.freqmax, freqmax := freqmaxUpdated s.order0 sym.toNat s
        ovr := t.ovr, inptr := r.inptr, pastend := r.pastend
        ctxid := (s.ctxid <<< 8) ||| sym.setWidth 64, res := s.res ++ [sym.setWidth 32], pc := s.pc + 1 } ∧
      readTable (ctxIndex s) t = (readTable (ctxIndex s) s).novel sym.toNat ∧
      ∀ d, d ≠ ctxIndex s → readTable d t = readTable d s

/-- PPM_DEC in a context whose counts of 0..255 reach past the query value decodes from that context alone
(R226, R228): the symbol is the one whose interval holds the value; LOW, RANGE, CODE and the reads are those of one
coder step with that interval (R182); and the context alone is UPDATEd. -/
def Obligations.PpmDecHitDecodesFromTheContext : Prop :=
  ∀ s : State, s.mode = .dec → s.qpend = false → s.ucnt = 0 → CoderOk s → ContextMem.wf s.tables →
    TableSound (readTable (ctxIndex s) s) → (readTable (ctxIndex s) s).sum ≠ 0 →
    (readTable (ctxIndex s) s).sum.toNat ≤ s.range.toNat →
    (s.code - s.low).toNat / (s.range.toNat / (readTable (ctxIndex s) s).sum.toNat) <
      (readTable (ctxIndex s) s).cumLo 256 →
    ∃ (sym : Byte) (bs bytes : List Byte) (r t : State), exec .ppmDec s = .next t ∧
      (readTable (ctxIndex s) s).cumLo sym.toNat ≤
        (s.code - s.low).toNat / (s.range.toNat / (readTable (ctxIndex s) s).sum.toNat) ∧
      (s.code - s.low).toNat / (s.range.toNat / (readTable (ctxIndex s) s).sum.toNat) <
        (readTable (ctxIndex s) s).cumLo sym.toNat + ((readTable (ctxIndex s) s).count sym.toNat).toNat ∧
      Renorm
        (s.low + BitVec.ofNat 32 ((readTable (ctxIndex s) s).cumLo sym.toNat *
          (s.range.toNat / (readTable (ctxIndex s) s).sum.toNat)))
        (BitVec.ofNat 32 (s.range.toNat / (readTable (ctxIndex s) s).sum.toNat *
          ((readTable (ctxIndex s) s).count sym.toNat).toNat)) bs t.low t.range ∧
      inReads bs.length s = (bytes, r) ∧
      t = { s with
        low := t.low, range := t.range, code := codeAfter s.code bytes, tables := t.tables
        freqmax := freqmaxUpdated (readTable (ctxIndex s) s) sym.toNat s
        inptr := r.inptr, pastend := r.pastend
        ctxid := (s.ctxid <<< 8) ||| sym.setWidth 64, res := s.res ++ [sym.setWidth 32], pc := s.pc + 1 } ∧
      readTable (ctxIndex s) t = (readTable (ctxIndex s) s).updated sym.toNat s.freqmax ∧
      ∀ d, d ≠ ctxIndex s → readTable d t = readTable d s

/-- PPM_DEC in a non-empty context whose counts of 0..255 do not reach the query value (R226, R228): the escape is
decoded, also where no count reaches it (clamped, OVR); then the symbol comes from the order-0 table, the one whose
share holds the second query value or 255 (clamped, OVR); the context takes the escape increment and the novel
symbol, and the order-0 table alone is UPDATEd. OVR is set exactly on an overrun; LOW, RANGE, CODE and the reads are
those of the two coder steps. -/
def Obligations.PpmDecEscapesToOrder0 : Prop :=
  ∀ s : State, s.mode = .dec → s.qpend = false → s.ucnt = 0 → CoderOk s → Order0Ok s → ContextMem.wf s.tables →
    TableSound (readTable (ctxIndex s) s) → (readTable (ctxIndex s) s).sum ≠ 0 →
    (readTable (ctxIndex s) s).sum.toNat ≤ s.range.toNat →
    (readTable (ctxIndex s) s).cumLo 256 ≤
      (s.code - s.low).toNat / (s.range.toNat / (readTable (ctxIndex s) s).sum.toNat) →
    ∃ (sym : Byte) (bytes bs2 bytes2 : List Byte) (low1 range1 f2 : Word) (r t : State), exec .ppmDec s = .next t ∧
      EscapeStep (readTable (ctxIndex s) s) s bytes low1 range1 ∧
      f2.toNat = (codeAfter s.code bytes - low1).toNat / (range1.toNat / s.order0.sum.toNat) ∧
      (s.order0.cumLo sym.toNat ≤ f2.toNat ∧
          f2.toNat < s.order0.cumLo sym.toNat + (s.order0.count sym.toNat).toNat ∨
        s.order0.cumLo 256 ≤ f2.toNat ∧ sym = 255) ∧
      Renorm (low1 + BitVec.ofNat 32 (s.order0.cumLo sym.toNat * (range1.toNat / s.order0.sum.toNat)))
        (BitVec.ofNat 32 (range1.toNat / s.order0.sum.toNat * (s.order0.count sym.toNat).toNat)) bs2 t.low t.range ∧
      inReads (bytes.length + bs2.length) s = (bytes ++ bytes2, r) ∧
      t = { s with
        low := t.low, range := t.range, code := codeAfter s.code (bytes ++ bytes2), tables := t.tables
        order0 := s.order0.updated sym.toNat s.freqmax, freqmax := freqmaxUpdated s.order0 sym.toNat s
        ovr := t.ovr, inptr := r.inptr, pastend := r.pastend
        ctxid := (s.ctxid <<< 8) ||| sym.setWidth 64, res := s.res ++ [sym.setWidth 32], pc := s.pc + 1 } ∧
      (t.ovr = true ↔ s.ovr = true ∨
        (readTable (ctxIndex s) s).total ≤
          (s.code - s.low).toNat / (s.range.toNat / (readTable (ctxIndex s) s).sum.toNat) ∨
        s.order0.cumLo 256 ≤ f2.toNat) ∧
      readTable (ctxIndex s) t = (readTable (ctxIndex s) s).escaped.novel sym.toNat ∧
      ∀ d, d ≠ ctxIndex s → readTable d t = readTable d s

/-- The decoder mirrors the encoder for every symbol: one its context holds, one under an empty context, and a novel
one under a non-empty context, which is escaped first (R186, R227, R228). With equal coder and model registers, and
CODE where an encoder of the symbol leaves it, PPM_DEC pushes the symbol PPM_ENC codes and the two stay equal. -/
def Obligations.PpmDecoderMirrorsEncoder : Prop :=
  ∀ (e d : State) (sym : Byte), SameModel e d →
    e.mode = .enc → e.pcnt = 0 → d.mode = .dec → d.qpend = false → d.ucnt = 0 →
    CoderOk e → CoderOk d → Order0Ok e → ContextMem.wf e.tables → TableExact (readTable (ctxIndex e) e) →
    (readTable (ctxIndex e) e).sum.toNat ≤ e.range.toNat → CodeSelects sym d →
    ∃ e' d' : State, exec (.ppmEnc sym) e = .next e' ∧ exec .ppmDec d = .next d' ∧
      d'.res = d.res ++ [sym.setWidth 32] ∧ d'.ovr = d.ovr ∧ SameModel e' d'

/-- E_RANGE (R230, R231, R263 to R265, `60_exceptions.md` R282, R287): a non-empty context whose sum exceeds RANGE
makes the first coder step divide to 0, in the encoder for every symbol and in the decoder, and so in PIX_ENC of the
index that fills the byte, in PIX_FLUSH of a partial byte and in PIX_DEC with no index left; the fault changes nothing
else, so the packer and the unpacker stay as they were. -/
def Obligations.OversizedSumRaisesRange : Prop :=
  ∀ (s : State), s.range.toNat < (readTable (ctxIndex s) s).sum.toNat →
    (s.mode = .enc → s.pcnt = 0 → ∀ sym : Byte, exec (.ppmEnc sym) s = .next { s with
      cause := 5, fpc := s.pc, fcmd := encode (.ppmEnc sym), rstate := .fault }) ∧
    (s.mode = .dec → s.qpend = false → s.ucnt = 0 → exec .ppmDec s = .next { s with
      cause := 5, fpc := s.pc, fcmd := encode .ppmDec, rstate := .fault }) ∧
    (s.mode = .enc → s.pcnt.toNat + 1 = indicesPerByte s → ∀ idx : BitVec 8, idx.toNat < 2 ^ bitsPerIndex s →
      exec (.pixEnc idx) s = .next { s with
        cause := 5, fpc := s.pc, fcmd := encode (.pixEnc idx), rstate := .fault }) ∧
    (s.mode = .enc → s.pcnt ≠ 0 → exec .pixFlush s = .next { s with
      cause := 5, fpc := s.pc, fcmd := encode .pixFlush, rstate := .fault }) ∧
    (s.mode = .dec → s.qpend = false → s.ucnt = 0 → exec .pixDec s = .next { s with
      cause := 5, fpc := s.pc, fcmd := encode .pixDec, rstate := .fault })

/-! ### Packer -/

/-- PIX_ENC of a legal index (R261, R263): below a full byte only the packer changes; with the byte full the
command does to the emptied packer what PPM_ENC of the packed byte does. -/
def Obligations.PixEncPacksAnIndex : Prop :=
  ∀ (s : State) (idx : BitVec 8), s.mode = .enc → idx.toNat < 2 ^ bitsPerIndex s → PackerOk s →
    ∃ b : Byte, b.toNat = s.pacc.toNat + idx.toNat * 2 ^ (s.pcnt.toNat * bitsPerIndex s) ∧
      (s.pcnt.toNat + 1 < indicesPerByte s →
        exec (.pixEnc idx) s = .next { s with pacc := b, pcnt := s.pcnt + 1, pc := s.pc + 1 }) ∧
      (s.pcnt.toNat + 1 = indicesPerByte s → CoderOk s → Order0Ok s → ContextMem.wf s.tables →
        TableExact (readTable (ctxIndex s) s) → (readTable (ctxIndex s) s).sum.toNat ≤ s.range.toNat →
        ∃ t, exec (.ppmEnc b) { s with pacc := 0, pcnt := 0 } = .next t ∧ t.rstate = s.rstate ∧
          t.pc = s.pc + 1 ∧ exec (.pixEnc idx) s = .next t)

/-- PIX_FLUSH (R264): with nothing packed it does nothing; else it does to the emptied packer what PPM_ENC of
the partial byte does. -/
def Obligations.PixFlushEncodesThePartialByte : Prop :=
  ∀ s : State, s.mode = .enc →
    (s.pcnt = 0 → exec .pixFlush s = .next { s with pc := s.pc + 1 }) ∧
    (s.pcnt ≠ 0 → CoderOk s → Order0Ok s → ContextMem.wf s.tables → TableExact (readTable (ctxIndex s) s) →
      (readTable (ctxIndex s) s).sum.toNat ≤ s.range.toNat →
      ∃ t, exec (.ppmEnc s.pacc) { s with pacc := 0, pcnt := 0 } = .next t ∧ t.rstate = s.rstate ∧
        t.pc = s.pc + 1 ∧ exec .pixFlush s = .next t)

/-- PIX_DEC (R265): with indices left it returns slot 0 of UBUF and shifts it out; with none left it does so to
the symbol PPM_DEC decodes, loaded with IPB indices. -/
def Obligations.PixDecReturnsTheNextIndex : Prop :=
  ∀ s : State, s.mode = .dec → s.qpend = false →
    (s.ucnt ≠ 0 → ∃ u : Byte, u.toNat = s.ubuf.toNat / 2 ^ bitsPerIndex s ∧
      exec .pixDec s = .next { s with
        ubuf := u, ucnt := s.ucnt - 1
        res := s.res ++ [BitVec.ofNat 32 (s.ubuf.toNat % 2 ^ bitsPerIndex s)], pc := s.pc + 1 }) ∧
    (s.ucnt = 0 → CoderOk s → Order0Ok s → ContextMem.wf s.tables → TableSound (readTable (ctxIndex s) s) →
      (readTable (ctxIndex s) s).sum.toNat ≤ s.range.toNat →
      ∃ (sym u : Byte) (n : BitVec 4) (t : State), exec .ppmDec s = .next t ∧
        t.res = s.res ++ [sym.setWidth 32] ∧ u.toNat = sym.toNat / 2 ^ bitsPerIndex s ∧
        n.toNat + 1 = indicesPerByte s ∧
        exec .pixDec s = .next { t with
          ubuf := u, ucnt := n, res := s.res ++ [BitVec.ofNat 32 (sym.toNat % 2 ^ bitsPerIndex s)] })

/-- Packing and unpacking agree, for every slot of every width (R261, R263, R265): from an empty packer, PIX_ENC of
fewer than IPB legal indices leaves them in the packer and changes nothing else; and a decoder whose unpacker holds
the byte they make with one more index in the next slot (the byte PIX_ENC of that index makes) returns all of them
in order. -/
def Obligations.UnpackerReturnsPackedIndices : Prop :=
  ∀ (e : State) (idxs : List (BitVec 8)) (last : BitVec 8), e.mode = .enc → PackerOk e → e.pcnt = 0 →
    idxs.length < indicesPerByte e → (∀ i ∈ idxs, i.toNat < 2 ^ bitsPerIndex e) → last.toNat < 2 ^ bitsPerIndex e →
    ∃ b : Byte,
      execAll (idxs.map .pixEnc) e = some { e with
        pacc := b, pcnt := BitVec.ofNat 4 idxs.length, pc := e.pc + BitVec.ofNat 32 idxs.length } ∧
      ∀ d : State, d.mode = .dec → d.qpend = false → d.palsz = e.palsz →
        d.ubuf.toNat = b.toNat + last.toNat * 2 ^ (idxs.length * bitsPerIndex e) → idxs.length < d.ucnt.toNat →
        ∃ d' : State, execAll (List.replicate (idxs.length + 1) .pixDec) d = some d' ∧
          d'.res = d.res ++ (idxs ++ [last]).map (·.setWidth 32)

/-! ### Faults -/

/-- R283, R284, R285, R286: the checks are made in the order ILLEGAL, MODE, SEQ, PROB, INDEX, the first that fails
gives the cause, and the command then changes only CAUSE, FPC, FCMD and RSTATE. -/
def Obligations.FirstFailingCheckGivesTheCause : Prop :=
  ∀ (i : Instr) (s : State) (e : Cause), FirstFailure i s e →
    exec i s = .next { s with cause := e.code, fpc := s.pc, fcmd := encode i, rstate := .fault }

/-- A command whose checks all pass raises no cause but E_RANGE, and that only if it is a PPM, packer or raw coder
command (R283, R287, R280). -/
def Obligations.PassedChecksLeaveOnlyRange : Prop :=
  ∀ (i : Instr) (s t : State), ChecksPass i s → s.rstate = .run → exec i s = .next t → t.rstate = .fault →
    t.cause = 5 ∧
    ((∃ u, i = .acEnc u) ∨ (∃ u, i = .acDfreq u) ∨ (∃ u, i = .ppmEnc u) ∨ (∃ u, i = .pixEnc u) ∨
      i = .pixFlush ∨ i = .ppmDec ∨ i = .pixDec)

/-- R281, R282: a command that faults changes no state but CAUSE, FPC, FCMD and RSTATE, also where the
fault is found part-way: CAUSE is 1 to 6, FPC is the PC, which is not advanced, and FCMD is the command's word. -/
def Obligations.FaultsArePreciseAndAtomic : Prop :=
  ∀ (i : Instr) (s t : State), s.rstate = .run → exec i s = .next t → t.rstate = .fault →
    t = { s with cause := t.cause, fpc := s.pc, fcmd := encode i, rstate := .fault } ∧
    1 ≤ t.cause.toNat ∧ t.cause.toNat ≤ 6

/-- R292: FAULT is left only by reset: in FAULT a step, whatever the host does, keeps RSTATE, CAUSE, FPC, FCMD, PC
and everything the block has put out, unless a reset completes in it. That they stay from the assertion of a reset
until it completes is the model's choice (DESIGN CHOICE, log entry 12). -/
def Obligations.OnlyResetLeavesFault : Prop :=
  ∀ s t : State, s.rstate = .fault → step s = .next t →
    (t.rstate = .fault ∧ t.cause = s.cause ∧ t.fpc = s.fpc ∧ t.fcmd = s.fcmd ∧ t.pc = s.pc ∧
      t.out = s.out ∧ t.res = s.res) ∨
    (hostTurn s = some .releaseReset ∧ s.resetting = true ∧ t.rstate = .ready)

/-- R28, R289: a sticky flag, once set, stays set through every command. -/
def Obligations.StickyFlagsStaySet : Prop :=
  ∀ (i : Instr) (s t : State), exec i s = .next t →
    (s.ovr = true → t.ovr = true) ∧ (s.vovf = true → t.vovf = true) ∧ (s.pastend = true → t.pastend = true)

/-- OUT and RES only grow, by at most 6 bytes and one word a command, and OUTCNT counts the bytes (R64, R66, R67;
`10_state.md` R38; `70_reset_and_hazards.md` R331). -/
def Obligations.OutputsOnlyGrow : Prop :=
  ∀ (i : Instr) (s t : State), exec i s = .next t → ∃ (bs : List Byte) (ws : List Word),
    t.out = s.out ++ bs ∧ bs.length ≤ 6 ∧ t.outcnt = s.outcnt + BitVec.ofNat 32 bs.length ∧
    t.res = s.res ++ ws ∧ ws.length ≤ 1

/-- What no command writes, and who writes what (R20, R22 to R24, R26 to R38, R79): CMD, IN, INLEN and the model's own
fields stay; PALSZ changes only by CFG; OPR only by LDL and LDH; INLIM only by LIMIT; MODE only by the INITs,
ENC_FLUSH and DEC_END; PC advances by one or stays in a fault; RSTATE changes only by HALT and a fault, and CAUSE, FPC
and FCMD only by a fault; and every other register, the context memory, OUT and RES change only by the commands that
the table `mayWrite` lists for them. -/
def Obligations.CommandsWriteOnlyTheirRegisters : Prop :=
  ∀ (i : Instr) (s t : State), exec i s = .next t →
    t.cmd = s.cmd ∧ t.inp = s.inp ∧ t.inlen = s.inlen ∧ t.resetting = s.resetting ∧ t.schedule = s.schedule ∧
    t.window = s.window ∧ t.draws = s.draws ∧
    ((∀ u, i ≠ .cfg u) → t.palsz = s.palsz) ∧
    ((∀ u, i ≠ .ldl u) → (∀ u, i ≠ .ldh u) → t.opr = s.opr) ∧
    (i ≠ .limit → t.inlim = s.inlim) ∧
    (i ≠ .encInit → i ≠ .decInit → i ≠ .encFlush → i ≠ .decEnd → t.mode = s.mode) ∧
    (t.pc = s.pc + 1 ∨ (t.pc = s.pc ∧ t.rstate = .fault)) ∧
    (t.rstate = s.rstate ∨ t.rstate = .fault ∨ (i = .halt ∧ t.rstate = .done)) ∧
    (t.rstate ≠ .fault → t.cause = s.cause ∧ t.fpc = s.fpc ∧ t.fcmd = s.fcmd) ∧
    (.qpend ∉ mayWrite i → t.qpend = s.qpend) ∧ (.qscale ∉ mayWrite i → t.qscale = s.qscale) ∧
    (.ovr ∉ mayWrite i → t.ovr = s.ovr) ∧ (.vovf ∉ mayWrite i → t.vovf = s.vovf) ∧
    (.pastend ∉ mayWrite i → t.pastend = s.pastend) ∧
    (.low ∉ mayWrite i → t.low = s.low) ∧ (.range ∉ mayWrite i → t.range = s.range) ∧
    (.code ∉ mayWrite i → t.code = s.code) ∧
    (.model ∉ mayWrite i →
      t.freqmax = s.freqmax ∧ t.ctxid = s.ctxid ∧ t.tables = s.tables ∧ t.order0 = s.order0) ∧
    (.pack ∉ mayWrite i → t.pacc = s.pacc ∧ t.pcnt = s.pcnt) ∧
    (.unpack ∉ mayWrite i → t.ubuf = s.ubuf ∧ t.ucnt = s.ucnt) ∧
    (.inptr ∉ mayWrite i → t.inptr = s.inptr) ∧
    (.out ∉ mayWrite i → t.out = s.out ∧ t.outcnt = s.outcnt) ∧
    (.res ∉ mayWrite i → t.res = s.res)

/-! ### The host -/

/-- R326: a start from READY or DONE sets PC = 0 and RUN and keeps every other register; in RUN and in FAULT
nothing happens. INLEN takes IN_LEN as given at the start (R324, log entry 5). -/
def Obligations.HostStartBeginsARun : Prop :=
  ∀ s : State, hostTurn s = some .start → s.resetting = false →
    (s.rstate = .ready ∨ s.rstate = .done → step s = .next { dropTurn s with
      pc := 0, rstate := .run, inlen := BitVec.ofNat 32 s.inp.length }) ∧
    (s.rstate = .run ∨ s.rstate = .fault → step s = .next (dropTurn s))

/-- R40: when reset completes every piece of state has its reset value, from whatever state; and the command list
and the input bytes are unchanged (R320). -/
def Obligations.ResetRestoresEveryRegister : Prop :=
  ∀ s : State, hostTurn s = some .releaseReset → s.resetting = true → ∃ t, step s = .next t ∧
    t.rstate = .ready ∧ t.pc = 0 ∧ t.mode = .idle ∧ t.qpend = false ∧ t.qscale = 0 ∧ t.ovr = false ∧
    t.vovf = false ∧ t.pastend = false ∧ t.cause = 0 ∧ t.fpc = 0 ∧ t.fcmd = 0 ∧ t.palsz = 0 ∧ t.opr = 0 ∧
    t.low = 0 ∧ t.range = 0xFFFFFFFF ∧ t.code = 0 ∧ t.freqmax = 128 ∧ t.ctxid = 0 ∧
    (∀ (c : BitVec 8) (i : Nat), (readTable c t).sum = 0 ∧ (readTable c t).count i = 0) ∧
    (∀ i, i ≤ 256 → t.order0.count i = 1) ∧ t.order0.sum = 257 ∧ t.pacc = 0 ∧ t.pcnt = 0 ∧ t.ubuf = 0 ∧
    t.ucnt = 0 ∧ t.inptr = 0 ∧ t.inlim = 0xFFFFFFFF ∧ t.outcnt = 0 ∧ t.out = [] ∧ t.res = [] ∧
    t.cmd = s.cmd ∧ t.inp = s.inp ∧ t.resetting = false

/-- R70, R39: outside a run and outside reset an aligned 32-bit read at offset `4·n` returns register `n`, and a
reserved offset returns 0; during a run or a reset it returns some word; neither a read nor a write, in any state,
changes anything of the block; and `irq` is asserted exactly in DONE and FAULT outside reset, so never in READY, in
RUN or during reset (R290, R320). -/
def Obligations.WindowReadsTheRegisters : Prop :=
  (∀ (s : State) (n : Nat), n ≤ 31 →
    (s.rstate ≠ .run → s.resetting = false → hostTurn s = some (.readWindow (4 * n) 4) → ∃ v : Word,
      step s = .next { dropTurn s with window := s.window ++ [v] } ∧
      (∀ reg : BitVec 5, reg.toNat = n → n ≤ 20 →
        exec (.rdreg reg) s = .next { s with res := s.res ++ [v], pc := s.pc + 1 }) ∧
      (21 ≤ n → v = 0)) ∧
    (s.rstate = .run ∨ s.resetting = true → hostTurn s = some (.readWindow (4 * n) 4) → ∃ v : Word,
      step s = .next { dropTurn s with window := s.window ++ [v], draws := s.draws + 1 }) ∧
    (∀ x, hostTurn s = some (.writeWindow (4 * n) 4 x) → step s = .next (dropTurn s))) ∧
  (∀ s : State, irq s = true ↔ s.resetting = false ∧ (s.rstate = .done ∨ s.rstate = .fault))

/-- A host that loads CMD or IN during a run or during reset, starts during reset, loads more than R12 allows,
or makes an access that is not an aligned 32-bit one inside the window gets no move (R77, R70, R323; S3 and
S6), and outside those cases a load replaces CMD or IN and nothing else (log entries 8, 9 and 10). -/
def Obligations.HostDutiesAreEnforced : Prop :=
  ∀ (s : State) (words : List Word) (bytes : List Byte) (offset width : Nat) (x : Word),
    (hostTurn s = some (.loadCmd words) →
      (s.resetting = true → step s = .refused .hostActedDuringReset) ∧
      (s.resetting = false → s.rstate = .run → step s = .refused .hostWroteDuringRun) ∧
      (s.resetting = false → s.rstate ≠ .run →
        (words.length < 2 ^ 32 → step s = .next { dropTurn s with cmd := words }) ∧
        (2 ^ 32 ≤ words.length → step s = .refused .launchTooLong))) ∧
    (hostTurn s = some (.loadInput bytes) →
      (s.resetting = true → step s = .refused .hostActedDuringReset) ∧
      (s.resetting = false → s.rstate = .run → step s = .refused .hostWroteDuringRun) ∧
      (s.resetting = false → s.rstate ≠ .run →
        (bytes.length < 2 ^ 32 → step s = .next { dropTurn s with inp := bytes }) ∧
        (2 ^ 32 ≤ bytes.length → step s = .refused .launchTooLong))) ∧
    (hostTurn s = some .start → s.resetting = true → step s = .refused .hostActedDuringReset) ∧
    (hostTurn s = some (.readWindow offset width) ∨ hostTurn s = some (.writeWindow offset width x) →
      width ≠ 4 ∨ offset % 4 ≠ 0 ∨ 128 ≤ offset → step s = .refused .windowAccess)

/-! ### Invariants -/

/-- The reset state satisfies every invariant (R40, R41). -/
def Obligations.ResetSatisfiesTheInvariant : Prop := Inv State.reset ∧ SumsFarFromWrap State.reset

/-- The order-0 table (R41 item 2, R232 item 1) is kept by every step, whatever the input. -/
def Obligations.EveryStepKeepsOrder0 : Prop :=
  ∀ s s' : State, Order0Ok s → step s = .next s' → Order0Ok s'

/-- The packer and unpacker (R41 item 5) are kept by every step. -/
def Obligations.EveryStepKeepsThePacker : Prop :=
  ∀ s s' : State, PackerOk s → step s = .next s' → PackerOk s'

/-- The fault registers (R24) and the launch facts (R12, R23, R324) are kept by every step. -/
def Obligations.EveryStepKeepsFaultAndLaunchRegisters : Prop :=
  ∀ s s' : State, FaultOk s → LaunchOk s → step s = .next s' → FaultOk s' ∧ LaunchOk s'

/-- An encoder's context tables keep exact sums, at most `PROB_MAX − 1 + 2·255 = 16893` (R41 item 4, R232 items 3
and 4), by every step, and the context memory its canonical form. -/
def Obligations.EveryStepKeepsEncoderTablesExact : Prop :=
  (∀ t : Table, TableExact t → t.sum.toNat ≤ 16893) ∧
  ∀ s s' : State, ContextMem.wf s.tables → (s.mode = .enc → ∀ c, TableExact (readTable c s)) →
    step s = .next s' → ContextMem.wf s'.tables ∧ (s'.mode = .enc → ∀ c, TableExact (readTable c s'))

/-- Items 1, 2, 3 and 5 of R41 in every mode they name, and item 4 in ENC mode, are together kept by every step: in
particular RANGE ≥ PROB_MAX and `LOW + RANGE ≤ 2^32` between commands (item 1), encoding and decoding ANY input. The
premise excludes the one case the rules leave open, a decoder's sum about to wrap modulo `2^32` (R232 item 4, log
entry 4). -/
def Obligations.EveryStepKeepsTheInvariant : Prop :=
  ∀ s s' : State, Inv s → SumsFarFromWrap s → step s = .next s' → Inv s'

/-- No run gets stuck: from a state with the invariants no step ends in a model fault, and a step the host makes no
move in is never refused (R328: "The block does not stop by itself in any other way"). -/
def Obligations.TheBlockNeverSticks : Prop :=
  ∀ s : State, Inv s → (∀ f, step s ≠ .fault f) ∧ (hostTurn s = none → ∀ r, step s ≠ .refused r)
end

