-- ==== Sys2Proof/Laws/State.lean ====
section
/-! SUPPORT. One lemma per field per named update of State, each true by `rfl` and in the simp set, so that no
later proof unfolds a record update. -/

namespace Sys2Proof.Machine

variable (s : State)

/-! ### setOvr -/

@[simp] theorem setOvr_rstate : (setOvr s).rstate = s.rstate := rfl
@[simp] theorem setOvr_pc : (setOvr s).pc = s.pc := rfl
@[simp] theorem setOvr_cause : (setOvr s).cause = s.cause := rfl
@[simp] theorem setOvr_fpc : (setOvr s).fpc = s.fpc := rfl
@[simp] theorem setOvr_fcmd : (setOvr s).fcmd = s.fcmd := rfl
@[simp] theorem setOvr_mode : (setOvr s).mode = s.mode := rfl
@[simp] theorem setOvr_qpend : (setOvr s).qpend = s.qpend := rfl
@[simp] theorem setOvr_qscale : (setOvr s).qscale = s.qscale := rfl
@[simp] theorem setOvr_ovr : (setOvr s).ovr = true := rfl
@[simp] theorem setOvr_vovf : (setOvr s).vovf = s.vovf := rfl
@[simp] theorem setOvr_pastend : (setOvr s).pastend = s.pastend := rfl
@[simp] theorem setOvr_palsz : (setOvr s).palsz = s.palsz := rfl
@[simp] theorem setOvr_opr : (setOvr s).opr = s.opr := rfl
@[simp] theorem setOvr_low : (setOvr s).low = s.low := rfl
@[simp] theorem setOvr_range : (setOvr s).range = s.range := rfl
@[simp] theorem setOvr_code : (setOvr s).code = s.code := rfl
@[simp] theorem setOvr_freqmax : (setOvr s).freqmax = s.freqmax := rfl
@[simp] theorem setOvr_ctxid : (setOvr s).ctxid = s.ctxid := rfl
@[simp] theorem setOvr_tables : (setOvr s).tables = s.tables := rfl
@[simp] theorem setOvr_order0 : (setOvr s).order0 = s.order0 := rfl
@[simp] theorem setOvr_pacc : (setOvr s).pacc = s.pacc := rfl
@[simp] theorem setOvr_pcnt : (setOvr s).pcnt = s.pcnt := rfl
@[simp] theorem setOvr_ubuf : (setOvr s).ubuf = s.ubuf := rfl
@[simp] theorem setOvr_ucnt : (setOvr s).ucnt = s.ucnt := rfl
@[simp] theorem setOvr_inptr : (setOvr s).inptr = s.inptr := rfl
@[simp] theorem setOvr_inlim : (setOvr s).inlim = s.inlim := rfl
@[simp] theorem setOvr_outcnt : (setOvr s).outcnt = s.outcnt := rfl
@[simp] theorem setOvr_out : (setOvr s).out = s.out := rfl
@[simp] theorem setOvr_res : (setOvr s).res = s.res := rfl
@[simp] theorem setOvr_cmd : (setOvr s).cmd = s.cmd := rfl
@[simp] theorem setOvr_inp : (setOvr s).inp = s.inp := rfl
@[simp] theorem setOvr_inlen : (setOvr s).inlen = s.inlen := rfl
@[simp] theorem setOvr_resetting : (setOvr s).resetting = s.resetting := rfl
@[simp] theorem setOvr_schedule : (setOvr s).schedule = s.schedule := rfl
@[simp] theorem setOvr_window : (setOvr s).window = s.window := rfl
@[simp] theorem setOvr_draws : (setOvr s).draws = s.draws := rfl

/-! ### setVovf -/

@[simp] theorem setVovf_rstate : (setVovf s).rstate = s.rstate := rfl
@[simp] theorem setVovf_pc : (setVovf s).pc = s.pc := rfl
@[simp] theorem setVovf_cause : (setVovf s).cause = s.cause := rfl
@[simp] theorem setVovf_fpc : (setVovf s).fpc = s.fpc := rfl
@[simp] theorem setVovf_fcmd : (setVovf s).fcmd = s.fcmd := rfl
@[simp] theorem setVovf_mode : (setVovf s).mode = s.mode := rfl
@[simp] theorem setVovf_qpend : (setVovf s).qpend = s.qpend := rfl
@[simp] theorem setVovf_qscale : (setVovf s).qscale = s.qscale := rfl
@[simp] theorem setVovf_ovr : (setVovf s).ovr = s.ovr := rfl
@[simp] theorem setVovf_vovf : (setVovf s).vovf = true := rfl
@[simp] theorem setVovf_pastend : (setVovf s).pastend = s.pastend := rfl
@[simp] theorem setVovf_palsz : (setVovf s).palsz = s.palsz := rfl
@[simp] theorem setVovf_opr : (setVovf s).opr = s.opr := rfl
@[simp] theorem setVovf_low : (setVovf s).low = s.low := rfl
@[simp] theorem setVovf_range : (setVovf s).range = s.range := rfl
@[simp] theorem setVovf_code : (setVovf s).code = s.code := rfl
@[simp] theorem setVovf_freqmax : (setVovf s).freqmax = s.freqmax := rfl
@[simp] theorem setVovf_ctxid : (setVovf s).ctxid = s.ctxid := rfl
@[simp] theorem setVovf_tables : (setVovf s).tables = s.tables := rfl
@[simp] theorem setVovf_order0 : (setVovf s).order0 = s.order0 := rfl
@[simp] theorem setVovf_pacc : (setVovf s).pacc = s.pacc := rfl
@[simp] theorem setVovf_pcnt : (setVovf s).pcnt = s.pcnt := rfl
@[simp] theorem setVovf_ubuf : (setVovf s).ubuf = s.ubuf := rfl
@[simp] theorem setVovf_ucnt : (setVovf s).ucnt = s.ucnt := rfl
@[simp] theorem setVovf_inptr : (setVovf s).inptr = s.inptr := rfl
@[simp] theorem setVovf_inlim : (setVovf s).inlim = s.inlim := rfl
@[simp] theorem setVovf_outcnt : (setVovf s).outcnt = s.outcnt := rfl
@[simp] theorem setVovf_out : (setVovf s).out = s.out := rfl
@[simp] theorem setVovf_res : (setVovf s).res = s.res := rfl
@[simp] theorem setVovf_cmd : (setVovf s).cmd = s.cmd := rfl
@[simp] theorem setVovf_inp : (setVovf s).inp = s.inp := rfl
@[simp] theorem setVovf_inlen : (setVovf s).inlen = s.inlen := rfl
@[simp] theorem setVovf_resetting : (setVovf s).resetting = s.resetting := rfl
@[simp] theorem setVovf_schedule : (setVovf s).schedule = s.schedule := rfl
@[simp] theorem setVovf_window : (setVovf s).window = s.window := rfl
@[simp] theorem setVovf_draws : (setVovf s).draws = s.draws := rfl

/-! ### afterRead -/

@[simp] theorem afterRead_rstate : (afterRead s).rstate = s.rstate := rfl
@[simp] theorem afterRead_pc : (afterRead s).pc = s.pc := rfl
@[simp] theorem afterRead_cause : (afterRead s).cause = s.cause := rfl
@[simp] theorem afterRead_fpc : (afterRead s).fpc = s.fpc := rfl
@[simp] theorem afterRead_fcmd : (afterRead s).fcmd = s.fcmd := rfl
@[simp] theorem afterRead_mode : (afterRead s).mode = s.mode := rfl
@[simp] theorem afterRead_qpend : (afterRead s).qpend = s.qpend := rfl
@[simp] theorem afterRead_qscale : (afterRead s).qscale = s.qscale := rfl
@[simp] theorem afterRead_ovr : (afterRead s).ovr = s.ovr := rfl
@[simp] theorem afterRead_vovf : (afterRead s).vovf = s.vovf := rfl
@[simp] theorem afterRead_pastend : (afterRead s).pastend = (s.pastend || decide (inputEnd s ≤ s.inptr.toNat)) := rfl
@[simp] theorem afterRead_palsz : (afterRead s).palsz = s.palsz := rfl
@[simp] theorem afterRead_opr : (afterRead s).opr = s.opr := rfl
@[simp] theorem afterRead_low : (afterRead s).low = s.low := rfl
@[simp] theorem afterRead_range : (afterRead s).range = s.range := rfl
@[simp] theorem afterRead_code : (afterRead s).code = s.code := rfl
@[simp] theorem afterRead_freqmax : (afterRead s).freqmax = s.freqmax := rfl
@[simp] theorem afterRead_ctxid : (afterRead s).ctxid = s.ctxid := rfl
@[simp] theorem afterRead_tables : (afterRead s).tables = s.tables := rfl
@[simp] theorem afterRead_order0 : (afterRead s).order0 = s.order0 := rfl
@[simp] theorem afterRead_pacc : (afterRead s).pacc = s.pacc := rfl
@[simp] theorem afterRead_pcnt : (afterRead s).pcnt = s.pcnt := rfl
@[simp] theorem afterRead_ubuf : (afterRead s).ubuf = s.ubuf := rfl
@[simp] theorem afterRead_ucnt : (afterRead s).ucnt = s.ucnt := rfl
@[simp] theorem afterRead_inptr : (afterRead s).inptr = if s.inptr = 0xFFFFFFFF then s.inptr else s.inptr + 1 := rfl
@[simp] theorem afterRead_inlim : (afterRead s).inlim = s.inlim := rfl
@[simp] theorem afterRead_outcnt : (afterRead s).outcnt = s.outcnt := rfl
@[simp] theorem afterRead_out : (afterRead s).out = s.out := rfl
@[simp] theorem afterRead_res : (afterRead s).res = s.res := rfl
@[simp] theorem afterRead_cmd : (afterRead s).cmd = s.cmd := rfl
@[simp] theorem afterRead_inp : (afterRead s).inp = s.inp := rfl
@[simp] theorem afterRead_inlen : (afterRead s).inlen = s.inlen := rfl
@[simp] theorem afterRead_resetting : (afterRead s).resetting = s.resetting := rfl
@[simp] theorem afterRead_schedule : (afterRead s).schedule = s.schedule := rfl
@[simp] theorem afterRead_window : (afterRead s).window = s.window := rfl
@[simp] theorem afterRead_draws : (afterRead s).draws = s.draws := rfl

/-! ### setCode -/

@[simp] theorem setCode_rstate (c : Word) : (setCode c s).rstate = s.rstate := rfl
@[simp] theorem setCode_pc (c : Word) : (setCode c s).pc = s.pc := rfl
@[simp] theorem setCode_cause (c : Word) : (setCode c s).cause = s.cause := rfl
@[simp] theorem setCode_fpc (c : Word) : (setCode c s).fpc = s.fpc := rfl
@[simp] theorem setCode_fcmd (c : Word) : (setCode c s).fcmd = s.fcmd := rfl
@[simp] theorem setCode_mode (c : Word) : (setCode c s).mode = s.mode := rfl
@[simp] theorem setCode_qpend (c : Word) : (setCode c s).qpend = s.qpend := rfl
@[simp] theorem setCode_qscale (c : Word) : (setCode c s).qscale = s.qscale := rfl
@[simp] theorem setCode_ovr (c : Word) : (setCode c s).ovr = s.ovr := rfl
@[simp] theorem setCode_vovf (c : Word) : (setCode c s).vovf = s.vovf := rfl
@[simp] theorem setCode_pastend (c : Word) : (setCode c s).pastend = s.pastend := rfl
@[simp] theorem setCode_palsz (c : Word) : (setCode c s).palsz = s.palsz := rfl
@[simp] theorem setCode_opr (c : Word) : (setCode c s).opr = s.opr := rfl
@[simp] theorem setCode_low (c : Word) : (setCode c s).low = s.low := rfl
@[simp] theorem setCode_range (c : Word) : (setCode c s).range = s.range := rfl
@[simp] theorem setCode_code (c : Word) : (setCode c s).code = c := rfl
@[simp] theorem setCode_freqmax (c : Word) : (setCode c s).freqmax = s.freqmax := rfl
@[simp] theorem setCode_ctxid (c : Word) : (setCode c s).ctxid = s.ctxid := rfl
@[simp] theorem setCode_tables (c : Word) : (setCode c s).tables = s.tables := rfl
@[simp] theorem setCode_order0 (c : Word) : (setCode c s).order0 = s.order0 := rfl
@[simp] theorem setCode_pacc (c : Word) : (setCode c s).pacc = s.pacc := rfl
@[simp] theorem setCode_pcnt (c : Word) : (setCode c s).pcnt = s.pcnt := rfl
@[simp] theorem setCode_ubuf (c : Word) : (setCode c s).ubuf = s.ubuf := rfl
@[simp] theorem setCode_ucnt (c : Word) : (setCode c s).ucnt = s.ucnt := rfl
@[simp] theorem setCode_inptr (c : Word) : (setCode c s).inptr = s.inptr := rfl
@[simp] theorem setCode_inlim (c : Word) : (setCode c s).inlim = s.inlim := rfl
@[simp] theorem setCode_outcnt (c : Word) : (setCode c s).outcnt = s.outcnt := rfl
@[simp] theorem setCode_out (c : Word) : (setCode c s).out = s.out := rfl
@[simp] theorem setCode_res (c : Word) : (setCode c s).res = s.res := rfl
@[simp] theorem setCode_cmd (c : Word) : (setCode c s).cmd = s.cmd := rfl
@[simp] theorem setCode_inp (c : Word) : (setCode c s).inp = s.inp := rfl
@[simp] theorem setCode_inlen (c : Word) : (setCode c s).inlen = s.inlen := rfl
@[simp] theorem setCode_resetting (c : Word) : (setCode c s).resetting = s.resetting := rfl
@[simp] theorem setCode_schedule (c : Word) : (setCode c s).schedule = s.schedule := rfl
@[simp] theorem setCode_window (c : Word) : (setCode c s).window = s.window := rfl
@[simp] theorem setCode_draws (c : Word) : (setCode c s).draws = s.draws := rfl

/-! ### setCoder -/

@[simp] theorem setCoder_rstate (l r : Word) : (setCoder l r s).rstate = s.rstate := rfl
@[simp] theorem setCoder_pc (l r : Word) : (setCoder l r s).pc = s.pc := rfl
@[simp] theorem setCoder_cause (l r : Word) : (setCoder l r s).cause = s.cause := rfl
@[simp] theorem setCoder_fpc (l r : Word) : (setCoder l r s).fpc = s.fpc := rfl
@[simp] theorem setCoder_fcmd (l r : Word) : (setCoder l r s).fcmd = s.fcmd := rfl
@[simp] theorem setCoder_mode (l r : Word) : (setCoder l r s).mode = s.mode := rfl
@[simp] theorem setCoder_qpend (l r : Word) : (setCoder l r s).qpend = s.qpend := rfl
@[simp] theorem setCoder_qscale (l r : Word) : (setCoder l r s).qscale = s.qscale := rfl
@[simp] theorem setCoder_ovr (l r : Word) : (setCoder l r s).ovr = s.ovr := rfl
@[simp] theorem setCoder_vovf (l r : Word) : (setCoder l r s).vovf = s.vovf := rfl
@[simp] theorem setCoder_pastend (l r : Word) : (setCoder l r s).pastend = s.pastend := rfl
@[simp] theorem setCoder_palsz (l r : Word) : (setCoder l r s).palsz = s.palsz := rfl
@[simp] theorem setCoder_opr (l r : Word) : (setCoder l r s).opr = s.opr := rfl
@[simp] theorem setCoder_low (l r : Word) : (setCoder l r s).low = l := rfl
@[simp] theorem setCoder_range (l r : Word) : (setCoder l r s).range = r := rfl
@[simp] theorem setCoder_code (l r : Word) : (setCoder l r s).code = s.code := rfl
@[simp] theorem setCoder_freqmax (l r : Word) : (setCoder l r s).freqmax = s.freqmax := rfl
@[simp] theorem setCoder_ctxid (l r : Word) : (setCoder l r s).ctxid = s.ctxid := rfl
@[simp] theorem setCoder_tables (l r : Word) : (setCoder l r s).tables = s.tables := rfl
@[simp] theorem setCoder_order0 (l r : Word) : (setCoder l r s).order0 = s.order0 := rfl
@[simp] theorem setCoder_pacc (l r : Word) : (setCoder l r s).pacc = s.pacc := rfl
@[simp] theorem setCoder_pcnt (l r : Word) : (setCoder l r s).pcnt = s.pcnt := rfl
@[simp] theorem setCoder_ubuf (l r : Word) : (setCoder l r s).ubuf = s.ubuf := rfl
@[simp] theorem setCoder_ucnt (l r : Word) : (setCoder l r s).ucnt = s.ucnt := rfl
@[simp] theorem setCoder_inptr (l r : Word) : (setCoder l r s).inptr = s.inptr := rfl
@[simp] theorem setCoder_inlim (l r : Word) : (setCoder l r s).inlim = s.inlim := rfl
@[simp] theorem setCoder_outcnt (l r : Word) : (setCoder l r s).outcnt = s.outcnt := rfl
@[simp] theorem setCoder_out (l r : Word) : (setCoder l r s).out = s.out := rfl
@[simp] theorem setCoder_res (l r : Word) : (setCoder l r s).res = s.res := rfl
@[simp] theorem setCoder_cmd (l r : Word) : (setCoder l r s).cmd = s.cmd := rfl
@[simp] theorem setCoder_inp (l r : Word) : (setCoder l r s).inp = s.inp := rfl
@[simp] theorem setCoder_inlen (l r : Word) : (setCoder l r s).inlen = s.inlen := rfl
@[simp] theorem setCoder_resetting (l r : Word) : (setCoder l r s).resetting = s.resetting := rfl
@[simp] theorem setCoder_schedule (l r : Word) : (setCoder l r s).schedule = s.schedule := rfl
@[simp] theorem setCoder_window (l r : Word) : (setCoder l r s).window = s.window := rfl
@[simp] theorem setCoder_draws (l r : Word) : (setCoder l r s).draws = s.draws := rfl

/-! ### outWrite -/

@[simp] theorem outWrite_rstate (b : Byte) : (outWrite b s).rstate = s.rstate := rfl
@[simp] theorem outWrite_pc (b : Byte) : (outWrite b s).pc = s.pc := rfl
@[simp] theorem outWrite_cause (b : Byte) : (outWrite b s).cause = s.cause := rfl
@[simp] theorem outWrite_fpc (b : Byte) : (outWrite b s).fpc = s.fpc := rfl
@[simp] theorem outWrite_fcmd (b : Byte) : (outWrite b s).fcmd = s.fcmd := rfl
@[simp] theorem outWrite_mode (b : Byte) : (outWrite b s).mode = s.mode := rfl
@[simp] theorem outWrite_qpend (b : Byte) : (outWrite b s).qpend = s.qpend := rfl
@[simp] theorem outWrite_qscale (b : Byte) : (outWrite b s).qscale = s.qscale := rfl
@[simp] theorem outWrite_ovr (b : Byte) : (outWrite b s).ovr = s.ovr := rfl
@[simp] theorem outWrite_vovf (b : Byte) : (outWrite b s).vovf = s.vovf := rfl
@[simp] theorem outWrite_pastend (b : Byte) : (outWrite b s).pastend = s.pastend := rfl
@[simp] theorem outWrite_palsz (b : Byte) : (outWrite b s).palsz = s.palsz := rfl
@[simp] theorem outWrite_opr (b : Byte) : (outWrite b s).opr = s.opr := rfl
@[simp] theorem outWrite_low (b : Byte) : (outWrite b s).low = s.low := rfl
@[simp] theorem outWrite_range (b : Byte) : (outWrite b s).range = s.range := rfl
@[simp] theorem outWrite_code (b : Byte) : (outWrite b s).code = s.code := rfl
@[simp] theorem outWrite_freqmax (b : Byte) : (outWrite b s).freqmax = s.freqmax := rfl
@[simp] theorem outWrite_ctxid (b : Byte) : (outWrite b s).ctxid = s.ctxid := rfl
@[simp] theorem outWrite_tables (b : Byte) : (outWrite b s).tables = s.tables := rfl
@[simp] theorem outWrite_order0 (b : Byte) : (outWrite b s).order0 = s.order0 := rfl
@[simp] theorem outWrite_pacc (b : Byte) : (outWrite b s).pacc = s.pacc := rfl
@[simp] theorem outWrite_pcnt (b : Byte) : (outWrite b s).pcnt = s.pcnt := rfl
@[simp] theorem outWrite_ubuf (b : Byte) : (outWrite b s).ubuf = s.ubuf := rfl
@[simp] theorem outWrite_ucnt (b : Byte) : (outWrite b s).ucnt = s.ucnt := rfl
@[simp] theorem outWrite_inptr (b : Byte) : (outWrite b s).inptr = s.inptr := rfl
@[simp] theorem outWrite_inlim (b : Byte) : (outWrite b s).inlim = s.inlim := rfl
@[simp] theorem outWrite_outcnt (b : Byte) : (outWrite b s).outcnt = s.outcnt + 1 := rfl
@[simp] theorem outWrite_out (b : Byte) : (outWrite b s).out = s.out ++ [b] := rfl
@[simp] theorem outWrite_res (b : Byte) : (outWrite b s).res = s.res := rfl
@[simp] theorem outWrite_cmd (b : Byte) : (outWrite b s).cmd = s.cmd := rfl
@[simp] theorem outWrite_inp (b : Byte) : (outWrite b s).inp = s.inp := rfl
@[simp] theorem outWrite_inlen (b : Byte) : (outWrite b s).inlen = s.inlen := rfl
@[simp] theorem outWrite_resetting (b : Byte) : (outWrite b s).resetting = s.resetting := rfl
@[simp] theorem outWrite_schedule (b : Byte) : (outWrite b s).schedule = s.schedule := rfl
@[simp] theorem outWrite_window (b : Byte) : (outWrite b s).window = s.window := rfl
@[simp] theorem outWrite_draws (b : Byte) : (outWrite b s).draws = s.draws := rfl

/-! ### resPush -/

@[simp] theorem resPush_rstate (w : Word) : (resPush w s).rstate = s.rstate := rfl
@[simp] theorem resPush_pc (w : Word) : (resPush w s).pc = s.pc := rfl
@[simp] theorem resPush_cause (w : Word) : (resPush w s).cause = s.cause := rfl
@[simp] theorem resPush_fpc (w : Word) : (resPush w s).fpc = s.fpc := rfl
@[simp] theorem resPush_fcmd (w : Word) : (resPush w s).fcmd = s.fcmd := rfl
@[simp] theorem resPush_mode (w : Word) : (resPush w s).mode = s.mode := rfl
@[simp] theorem resPush_qpend (w : Word) : (resPush w s).qpend = s.qpend := rfl
@[simp] theorem resPush_qscale (w : Word) : (resPush w s).qscale = s.qscale := rfl
@[simp] theorem resPush_ovr (w : Word) : (resPush w s).ovr = s.ovr := rfl
@[simp] theorem resPush_vovf (w : Word) : (resPush w s).vovf = s.vovf := rfl
@[simp] theorem resPush_pastend (w : Word) : (resPush w s).pastend = s.pastend := rfl
@[simp] theorem resPush_palsz (w : Word) : (resPush w s).palsz = s.palsz := rfl
@[simp] theorem resPush_opr (w : Word) : (resPush w s).opr = s.opr := rfl
@[simp] theorem resPush_low (w : Word) : (resPush w s).low = s.low := rfl
@[simp] theorem resPush_range (w : Word) : (resPush w s).range = s.range := rfl
@[simp] theorem resPush_code (w : Word) : (resPush w s).code = s.code := rfl
@[simp] theorem resPush_freqmax (w : Word) : (resPush w s).freqmax = s.freqmax := rfl
@[simp] theorem resPush_ctxid (w : Word) : (resPush w s).ctxid = s.ctxid := rfl
@[simp] theorem resPush_tables (w : Word) : (resPush w s).tables = s.tables := rfl
@[simp] theorem resPush_order0 (w : Word) : (resPush w s).order0 = s.order0 := rfl
@[simp] theorem resPush_pacc (w : Word) : (resPush w s).pacc = s.pacc := rfl
@[simp] theorem resPush_pcnt (w : Word) : (resPush w s).pcnt = s.pcnt := rfl
@[simp] theorem resPush_ubuf (w : Word) : (resPush w s).ubuf = s.ubuf := rfl
@[simp] theorem resPush_ucnt (w : Word) : (resPush w s).ucnt = s.ucnt := rfl
@[simp] theorem resPush_inptr (w : Word) : (resPush w s).inptr = s.inptr := rfl
@[simp] theorem resPush_inlim (w : Word) : (resPush w s).inlim = s.inlim := rfl
@[simp] theorem resPush_outcnt (w : Word) : (resPush w s).outcnt = s.outcnt := rfl
@[simp] theorem resPush_out (w : Word) : (resPush w s).out = s.out := rfl
@[simp] theorem resPush_res (w : Word) : (resPush w s).res = s.res ++ [w] := rfl
@[simp] theorem resPush_cmd (w : Word) : (resPush w s).cmd = s.cmd := rfl
@[simp] theorem resPush_inp (w : Word) : (resPush w s).inp = s.inp := rfl
@[simp] theorem resPush_inlen (w : Word) : (resPush w s).inlen = s.inlen := rfl
@[simp] theorem resPush_resetting (w : Word) : (resPush w s).resetting = s.resetting := rfl
@[simp] theorem resPush_schedule (w : Word) : (resPush w s).schedule = s.schedule := rfl
@[simp] theorem resPush_window (w : Word) : (resPush w s).window = s.window := rfl
@[simp] theorem resPush_draws (w : Word) : (resPush w s).draws = s.draws := rfl

/-! ### writeTable -/

@[simp] theorem writeTable_rstate (c : BitVec 8) (t : Table) : (writeTable c t s).rstate = s.rstate := rfl
@[simp] theorem writeTable_pc (c : BitVec 8) (t : Table) : (writeTable c t s).pc = s.pc := rfl
@[simp] theorem writeTable_cause (c : BitVec 8) (t : Table) : (writeTable c t s).cause = s.cause := rfl
@[simp] theorem writeTable_fpc (c : BitVec 8) (t : Table) : (writeTable c t s).fpc = s.fpc := rfl
@[simp] theorem writeTable_fcmd (c : BitVec 8) (t : Table) : (writeTable c t s).fcmd = s.fcmd := rfl
@[simp] theorem writeTable_mode (c : BitVec 8) (t : Table) : (writeTable c t s).mode = s.mode := rfl
@[simp] theorem writeTable_qpend (c : BitVec 8) (t : Table) : (writeTable c t s).qpend = s.qpend := rfl
@[simp] theorem writeTable_qscale (c : BitVec 8) (t : Table) : (writeTable c t s).qscale = s.qscale := rfl
@[simp] theorem writeTable_ovr (c : BitVec 8) (t : Table) : (writeTable c t s).ovr = s.ovr := rfl
@[simp] theorem writeTable_vovf (c : BitVec 8) (t : Table) : (writeTable c t s).vovf = s.vovf := rfl
@[simp] theorem writeTable_pastend (c : BitVec 8) (t : Table) : (writeTable c t s).pastend = s.pastend := rfl
@[simp] theorem writeTable_palsz (c : BitVec 8) (t : Table) : (writeTable c t s).palsz = s.palsz := rfl
@[simp] theorem writeTable_opr (c : BitVec 8) (t : Table) : (writeTable c t s).opr = s.opr := rfl
@[simp] theorem writeTable_low (c : BitVec 8) (t : Table) : (writeTable c t s).low = s.low := rfl
@[simp] theorem writeTable_range (c : BitVec 8) (t : Table) : (writeTable c t s).range = s.range := rfl
@[simp] theorem writeTable_code (c : BitVec 8) (t : Table) : (writeTable c t s).code = s.code := rfl
@[simp] theorem writeTable_freqmax (c : BitVec 8) (t : Table) : (writeTable c t s).freqmax = s.freqmax := rfl
@[simp] theorem writeTable_ctxid (c : BitVec 8) (t : Table) : (writeTable c t s).ctxid = s.ctxid := rfl
@[simp] theorem writeTable_tables (c : BitVec 8) (t : Table) : (writeTable c t s).tables = ContextMem.write s.tables c.toNat t := rfl
@[simp] theorem writeTable_order0 (c : BitVec 8) (t : Table) : (writeTable c t s).order0 = s.order0 := rfl
@[simp] theorem writeTable_pacc (c : BitVec 8) (t : Table) : (writeTable c t s).pacc = s.pacc := rfl
@[simp] theorem writeTable_pcnt (c : BitVec 8) (t : Table) : (writeTable c t s).pcnt = s.pcnt := rfl
@[simp] theorem writeTable_ubuf (c : BitVec 8) (t : Table) : (writeTable c t s).ubuf = s.ubuf := rfl
@[simp] theorem writeTable_ucnt (c : BitVec 8) (t : Table) : (writeTable c t s).ucnt = s.ucnt := rfl
@[simp] theorem writeTable_inptr (c : BitVec 8) (t : Table) : (writeTable c t s).inptr = s.inptr := rfl
@[simp] theorem writeTable_inlim (c : BitVec 8) (t : Table) : (writeTable c t s).inlim = s.inlim := rfl
@[simp] theorem writeTable_outcnt (c : BitVec 8) (t : Table) : (writeTable c t s).outcnt = s.outcnt := rfl
@[simp] theorem writeTable_out (c : BitVec 8) (t : Table) : (writeTable c t s).out = s.out := rfl
@[simp] theorem writeTable_res (c : BitVec 8) (t : Table) : (writeTable c t s).res = s.res := rfl
@[simp] theorem writeTable_cmd (c : BitVec 8) (t : Table) : (writeTable c t s).cmd = s.cmd := rfl
@[simp] theorem writeTable_inp (c : BitVec 8) (t : Table) : (writeTable c t s).inp = s.inp := rfl
@[simp] theorem writeTable_inlen (c : BitVec 8) (t : Table) : (writeTable c t s).inlen = s.inlen := rfl
@[simp] theorem writeTable_resetting (c : BitVec 8) (t : Table) : (writeTable c t s).resetting = s.resetting := rfl
@[simp] theorem writeTable_schedule (c : BitVec 8) (t : Table) : (writeTable c t s).schedule = s.schedule := rfl
@[simp] theorem writeTable_window (c : BitVec 8) (t : Table) : (writeTable c t s).window = s.window := rfl
@[simp] theorem writeTable_draws (c : BitVec 8) (t : Table) : (writeTable c t s).draws = s.draws := rfl

/-! ### pushCtx -/

@[simp] theorem pushCtx_rstate (sym : Byte) : (pushCtx sym s).rstate = s.rstate := rfl
@[simp] theorem pushCtx_pc (sym : Byte) : (pushCtx sym s).pc = s.pc := rfl
@[simp] theorem pushCtx_cause (sym : Byte) : (pushCtx sym s).cause = s.cause := rfl
@[simp] theorem pushCtx_fpc (sym : Byte) : (pushCtx sym s).fpc = s.fpc := rfl
@[simp] theorem pushCtx_fcmd (sym : Byte) : (pushCtx sym s).fcmd = s.fcmd := rfl
@[simp] theorem pushCtx_mode (sym : Byte) : (pushCtx sym s).mode = s.mode := rfl
@[simp] theorem pushCtx_qpend (sym : Byte) : (pushCtx sym s).qpend = s.qpend := rfl
@[simp] theorem pushCtx_qscale (sym : Byte) : (pushCtx sym s).qscale = s.qscale := rfl
@[simp] theorem pushCtx_ovr (sym : Byte) : (pushCtx sym s).ovr = s.ovr := rfl
@[simp] theorem pushCtx_vovf (sym : Byte) : (pushCtx sym s).vovf = s.vovf := rfl
@[simp] theorem pushCtx_pastend (sym : Byte) : (pushCtx sym s).pastend = s.pastend := rfl
@[simp] theorem pushCtx_palsz (sym : Byte) : (pushCtx sym s).palsz = s.palsz := rfl
@[simp] theorem pushCtx_opr (sym : Byte) : (pushCtx sym s).opr = s.opr := rfl
@[simp] theorem pushCtx_low (sym : Byte) : (pushCtx sym s).low = s.low := rfl
@[simp] theorem pushCtx_range (sym : Byte) : (pushCtx sym s).range = s.range := rfl
@[simp] theorem pushCtx_code (sym : Byte) : (pushCtx sym s).code = s.code := rfl
@[simp] theorem pushCtx_freqmax (sym : Byte) : (pushCtx sym s).freqmax = s.freqmax := rfl
@[simp] theorem pushCtx_ctxid (sym : Byte) : (pushCtx sym s).ctxid = (s.ctxid <<< 8) ||| sym.setWidth 64 := rfl
@[simp] theorem pushCtx_tables (sym : Byte) : (pushCtx sym s).tables = s.tables := rfl
@[simp] theorem pushCtx_order0 (sym : Byte) : (pushCtx sym s).order0 = s.order0 := rfl
@[simp] theorem pushCtx_pacc (sym : Byte) : (pushCtx sym s).pacc = s.pacc := rfl
@[simp] theorem pushCtx_pcnt (sym : Byte) : (pushCtx sym s).pcnt = s.pcnt := rfl
@[simp] theorem pushCtx_ubuf (sym : Byte) : (pushCtx sym s).ubuf = s.ubuf := rfl
@[simp] theorem pushCtx_ucnt (sym : Byte) : (pushCtx sym s).ucnt = s.ucnt := rfl
@[simp] theorem pushCtx_inptr (sym : Byte) : (pushCtx sym s).inptr = s.inptr := rfl
@[simp] theorem pushCtx_inlim (sym : Byte) : (pushCtx sym s).inlim = s.inlim := rfl
@[simp] theorem pushCtx_outcnt (sym : Byte) : (pushCtx sym s).outcnt = s.outcnt := rfl
@[simp] theorem pushCtx_out (sym : Byte) : (pushCtx sym s).out = s.out := rfl
@[simp] theorem pushCtx_res (sym : Byte) : (pushCtx sym s).res = s.res := rfl
@[simp] theorem pushCtx_cmd (sym : Byte) : (pushCtx sym s).cmd = s.cmd := rfl
@[simp] theorem pushCtx_inp (sym : Byte) : (pushCtx sym s).inp = s.inp := rfl
@[simp] theorem pushCtx_inlen (sym : Byte) : (pushCtx sym s).inlen = s.inlen := rfl
@[simp] theorem pushCtx_resetting (sym : Byte) : (pushCtx sym s).resetting = s.resetting := rfl
@[simp] theorem pushCtx_schedule (sym : Byte) : (pushCtx sym s).schedule = s.schedule := rfl
@[simp] theorem pushCtx_window (sym : Byte) : (pushCtx sym s).window = s.window := rfl
@[simp] theorem pushCtx_draws (sym : Byte) : (pushCtx sym s).draws = s.draws := rfl

/-! ### escapeTable -/

@[simp] theorem escapeTable_rstate (c : BitVec 8) : (escapeTable c s).rstate = s.rstate := rfl
@[simp] theorem escapeTable_pc (c : BitVec 8) : (escapeTable c s).pc = s.pc := rfl
@[simp] theorem escapeTable_cause (c : BitVec 8) : (escapeTable c s).cause = s.cause := rfl
@[simp] theorem escapeTable_fpc (c : BitVec 8) : (escapeTable c s).fpc = s.fpc := rfl
@[simp] theorem escapeTable_fcmd (c : BitVec 8) : (escapeTable c s).fcmd = s.fcmd := rfl
@[simp] theorem escapeTable_mode (c : BitVec 8) : (escapeTable c s).mode = s.mode := rfl
@[simp] theorem escapeTable_qpend (c : BitVec 8) : (escapeTable c s).qpend = s.qpend := rfl
@[simp] theorem escapeTable_qscale (c : BitVec 8) : (escapeTable c s).qscale = s.qscale := rfl
@[simp] theorem escapeTable_ovr (c : BitVec 8) : (escapeTable c s).ovr = s.ovr := rfl
@[simp] theorem escapeTable_vovf (c : BitVec 8) : (escapeTable c s).vovf = s.vovf := rfl
@[simp] theorem escapeTable_pastend (c : BitVec 8) : (escapeTable c s).pastend = s.pastend := rfl
@[simp] theorem escapeTable_palsz (c : BitVec 8) : (escapeTable c s).palsz = s.palsz := rfl
@[simp] theorem escapeTable_opr (c : BitVec 8) : (escapeTable c s).opr = s.opr := rfl
@[simp] theorem escapeTable_low (c : BitVec 8) : (escapeTable c s).low = s.low := rfl
@[simp] theorem escapeTable_range (c : BitVec 8) : (escapeTable c s).range = s.range := rfl
@[simp] theorem escapeTable_code (c : BitVec 8) : (escapeTable c s).code = s.code := rfl
@[simp] theorem escapeTable_freqmax (c : BitVec 8) : (escapeTable c s).freqmax = s.freqmax := rfl
@[simp] theorem escapeTable_ctxid (c : BitVec 8) : (escapeTable c s).ctxid = s.ctxid := rfl
@[simp] theorem escapeTable_tables (c : BitVec 8) : (escapeTable c s).tables = ContextMem.write s.tables c.toNat (readTable c s).escaped := rfl
@[simp] theorem escapeTable_order0 (c : BitVec 8) : (escapeTable c s).order0 = s.order0 := rfl
@[simp] theorem escapeTable_pacc (c : BitVec 8) : (escapeTable c s).pacc = s.pacc := rfl
@[simp] theorem escapeTable_pcnt (c : BitVec 8) : (escapeTable c s).pcnt = s.pcnt := rfl
@[simp] theorem escapeTable_ubuf (c : BitVec 8) : (escapeTable c s).ubuf = s.ubuf := rfl
@[simp] theorem escapeTable_ucnt (c : BitVec 8) : (escapeTable c s).ucnt = s.ucnt := rfl
@[simp] theorem escapeTable_inptr (c : BitVec 8) : (escapeTable c s).inptr = s.inptr := rfl
@[simp] theorem escapeTable_inlim (c : BitVec 8) : (escapeTable c s).inlim = s.inlim := rfl
@[simp] theorem escapeTable_outcnt (c : BitVec 8) : (escapeTable c s).outcnt = s.outcnt := rfl
@[simp] theorem escapeTable_out (c : BitVec 8) : (escapeTable c s).out = s.out := rfl
@[simp] theorem escapeTable_res (c : BitVec 8) : (escapeTable c s).res = s.res := rfl
@[simp] theorem escapeTable_cmd (c : BitVec 8) : (escapeTable c s).cmd = s.cmd := rfl
@[simp] theorem escapeTable_inp (c : BitVec 8) : (escapeTable c s).inp = s.inp := rfl
@[simp] theorem escapeTable_inlen (c : BitVec 8) : (escapeTable c s).inlen = s.inlen := rfl
@[simp] theorem escapeTable_resetting (c : BitVec 8) : (escapeTable c s).resetting = s.resetting := rfl
@[simp] theorem escapeTable_schedule (c : BitVec 8) : (escapeTable c s).schedule = s.schedule := rfl
@[simp] theorem escapeTable_window (c : BitVec 8) : (escapeTable c s).window = s.window := rfl
@[simp] theorem escapeTable_draws (c : BitVec 8) : (escapeTable c s).draws = s.draws := rfl

/-! ### novelTable -/

@[simp] theorem novelTable_rstate (c : BitVec 8) (sym : Byte) : (novelTable c sym s).rstate = s.rstate := rfl
@[simp] theorem novelTable_pc (c : BitVec 8) (sym : Byte) : (novelTable c sym s).pc = s.pc := rfl
@[simp] theorem novelTable_cause (c : BitVec 8) (sym : Byte) : (novelTable c sym s).cause = s.cause := rfl
@[simp] theorem novelTable_fpc (c : BitVec 8) (sym : Byte) : (novelTable c sym s).fpc = s.fpc := rfl
@[simp] theorem novelTable_fcmd (c : BitVec 8) (sym : Byte) : (novelTable c sym s).fcmd = s.fcmd := rfl
@[simp] theorem novelTable_mode (c : BitVec 8) (sym : Byte) : (novelTable c sym s).mode = s.mode := rfl
@[simp] theorem novelTable_qpend (c : BitVec 8) (sym : Byte) : (novelTable c sym s).qpend = s.qpend := rfl
@[simp] theorem novelTable_qscale (c : BitVec 8) (sym : Byte) : (novelTable c sym s).qscale = s.qscale := rfl
@[simp] theorem novelTable_ovr (c : BitVec 8) (sym : Byte) : (novelTable c sym s).ovr = s.ovr := rfl
@[simp] theorem novelTable_vovf (c : BitVec 8) (sym : Byte) : (novelTable c sym s).vovf = s.vovf := rfl
@[simp] theorem novelTable_pastend (c : BitVec 8) (sym : Byte) : (novelTable c sym s).pastend = s.pastend := rfl
@[simp] theorem novelTable_palsz (c : BitVec 8) (sym : Byte) : (novelTable c sym s).palsz = s.palsz := rfl
@[simp] theorem novelTable_opr (c : BitVec 8) (sym : Byte) : (novelTable c sym s).opr = s.opr := rfl
@[simp] theorem novelTable_low (c : BitVec 8) (sym : Byte) : (novelTable c sym s).low = s.low := rfl
@[simp] theorem novelTable_range (c : BitVec 8) (sym : Byte) : (novelTable c sym s).range = s.range := rfl
@[simp] theorem novelTable_code (c : BitVec 8) (sym : Byte) : (novelTable c sym s).code = s.code := rfl
@[simp] theorem novelTable_freqmax (c : BitVec 8) (sym : Byte) : (novelTable c sym s).freqmax = s.freqmax := rfl
@[simp] theorem novelTable_ctxid (c : BitVec 8) (sym : Byte) : (novelTable c sym s).ctxid = s.ctxid := rfl
@[simp] theorem novelTable_tables (c : BitVec 8) (sym : Byte) : (novelTable c sym s).tables = ContextMem.write s.tables c.toNat ((readTable c s).novel sym.toNat) := rfl
@[simp] theorem novelTable_order0 (c : BitVec 8) (sym : Byte) : (novelTable c sym s).order0 = s.order0 := rfl
@[simp] theorem novelTable_pacc (c : BitVec 8) (sym : Byte) : (novelTable c sym s).pacc = s.pacc := rfl
@[simp] theorem novelTable_pcnt (c : BitVec 8) (sym : Byte) : (novelTable c sym s).pcnt = s.pcnt := rfl
@[simp] theorem novelTable_ubuf (c : BitVec 8) (sym : Byte) : (novelTable c sym s).ubuf = s.ubuf := rfl
@[simp] theorem novelTable_ucnt (c : BitVec 8) (sym : Byte) : (novelTable c sym s).ucnt = s.ucnt := rfl
@[simp] theorem novelTable_inptr (c : BitVec 8) (sym : Byte) : (novelTable c sym s).inptr = s.inptr := rfl
@[simp] theorem novelTable_inlim (c : BitVec 8) (sym : Byte) : (novelTable c sym s).inlim = s.inlim := rfl
@[simp] theorem novelTable_outcnt (c : BitVec 8) (sym : Byte) : (novelTable c sym s).outcnt = s.outcnt := rfl
@[simp] theorem novelTable_out (c : BitVec 8) (sym : Byte) : (novelTable c sym s).out = s.out := rfl
@[simp] theorem novelTable_res (c : BitVec 8) (sym : Byte) : (novelTable c sym s).res = s.res := rfl
@[simp] theorem novelTable_cmd (c : BitVec 8) (sym : Byte) : (novelTable c sym s).cmd = s.cmd := rfl
@[simp] theorem novelTable_inp (c : BitVec 8) (sym : Byte) : (novelTable c sym s).inp = s.inp := rfl
@[simp] theorem novelTable_inlen (c : BitVec 8) (sym : Byte) : (novelTable c sym s).inlen = s.inlen := rfl
@[simp] theorem novelTable_resetting (c : BitVec 8) (sym : Byte) : (novelTable c sym s).resetting = s.resetting := rfl
@[simp] theorem novelTable_schedule (c : BitVec 8) (sym : Byte) : (novelTable c sym s).schedule = s.schedule := rfl
@[simp] theorem novelTable_window (c : BitVec 8) (sym : Byte) : (novelTable c sym s).window = s.window := rfl
@[simp] theorem novelTable_draws (c : BitVec 8) (sym : Byte) : (novelTable c sym s).draws = s.draws := rfl

/-! ### updateTable -/

@[simp] theorem updateTable_rstate (c : BitVec 8) (sym : Byte) : (updateTable c sym s).rstate = s.rstate := rfl
@[simp] theorem updateTable_pc (c : BitVec 8) (sym : Byte) : (updateTable c sym s).pc = s.pc := rfl
@[simp] theorem updateTable_cause (c : BitVec 8) (sym : Byte) : (updateTable c sym s).cause = s.cause := rfl
@[simp] theorem updateTable_fpc (c : BitVec 8) (sym : Byte) : (updateTable c sym s).fpc = s.fpc := rfl
@[simp] theorem updateTable_fcmd (c : BitVec 8) (sym : Byte) : (updateTable c sym s).fcmd = s.fcmd := rfl
@[simp] theorem updateTable_mode (c : BitVec 8) (sym : Byte) : (updateTable c sym s).mode = s.mode := rfl
@[simp] theorem updateTable_qpend (c : BitVec 8) (sym : Byte) : (updateTable c sym s).qpend = s.qpend := rfl
@[simp] theorem updateTable_qscale (c : BitVec 8) (sym : Byte) : (updateTable c sym s).qscale = s.qscale := rfl
@[simp] theorem updateTable_ovr (c : BitVec 8) (sym : Byte) : (updateTable c sym s).ovr = s.ovr := rfl
@[simp] theorem updateTable_vovf (c : BitVec 8) (sym : Byte) : (updateTable c sym s).vovf = s.vovf := rfl
@[simp] theorem updateTable_pastend (c : BitVec 8) (sym : Byte) : (updateTable c sym s).pastend = s.pastend := rfl
@[simp] theorem updateTable_palsz (c : BitVec 8) (sym : Byte) : (updateTable c sym s).palsz = s.palsz := rfl
@[simp] theorem updateTable_opr (c : BitVec 8) (sym : Byte) : (updateTable c sym s).opr = s.opr := rfl
@[simp] theorem updateTable_low (c : BitVec 8) (sym : Byte) : (updateTable c sym s).low = s.low := rfl
@[simp] theorem updateTable_range (c : BitVec 8) (sym : Byte) : (updateTable c sym s).range = s.range := rfl
@[simp] theorem updateTable_code (c : BitVec 8) (sym : Byte) : (updateTable c sym s).code = s.code := rfl
@[simp] theorem updateTable_freqmax (c : BitVec 8) (sym : Byte) : (updateTable c sym s).freqmax = freqmaxUpdated (readTable c s) sym.toNat s := rfl
@[simp] theorem updateTable_ctxid (c : BitVec 8) (sym : Byte) : (updateTable c sym s).ctxid = s.ctxid := rfl
@[simp] theorem updateTable_tables (c : BitVec 8) (sym : Byte) : (updateTable c sym s).tables = ContextMem.write s.tables c.toNat ((readTable c s).updated sym.toNat s.freqmax) := rfl
@[simp] theorem updateTable_order0 (c : BitVec 8) (sym : Byte) : (updateTable c sym s).order0 = s.order0 := rfl
@[simp] theorem updateTable_pacc (c : BitVec 8) (sym : Byte) : (updateTable c sym s).pacc = s.pacc := rfl
@[simp] theorem updateTable_pcnt (c : BitVec 8) (sym : Byte) : (updateTable c sym s).pcnt = s.pcnt := rfl
@[simp] theorem updateTable_ubuf (c : BitVec 8) (sym : Byte) : (updateTable c sym s).ubuf = s.ubuf := rfl
@[simp] theorem updateTable_ucnt (c : BitVec 8) (sym : Byte) : (updateTable c sym s).ucnt = s.ucnt := rfl
@[simp] theorem updateTable_inptr (c : BitVec 8) (sym : Byte) : (updateTable c sym s).inptr = s.inptr := rfl
@[simp] theorem updateTable_inlim (c : BitVec 8) (sym : Byte) : (updateTable c sym s).inlim = s.inlim := rfl
@[simp] theorem updateTable_outcnt (c : BitVec 8) (sym : Byte) : (updateTable c sym s).outcnt = s.outcnt := rfl
@[simp] theorem updateTable_out (c : BitVec 8) (sym : Byte) : (updateTable c sym s).out = s.out := rfl
@[simp] theorem updateTable_res (c : BitVec 8) (sym : Byte) : (updateTable c sym s).res = s.res := rfl
@[simp] theorem updateTable_cmd (c : BitVec 8) (sym : Byte) : (updateTable c sym s).cmd = s.cmd := rfl
@[simp] theorem updateTable_inp (c : BitVec 8) (sym : Byte) : (updateTable c sym s).inp = s.inp := rfl
@[simp] theorem updateTable_inlen (c : BitVec 8) (sym : Byte) : (updateTable c sym s).inlen = s.inlen := rfl
@[simp] theorem updateTable_resetting (c : BitVec 8) (sym : Byte) : (updateTable c sym s).resetting = s.resetting := rfl
@[simp] theorem updateTable_schedule (c : BitVec 8) (sym : Byte) : (updateTable c sym s).schedule = s.schedule := rfl
@[simp] theorem updateTable_window (c : BitVec 8) (sym : Byte) : (updateTable c sym s).window = s.window := rfl
@[simp] theorem updateTable_draws (c : BitVec 8) (sym : Byte) : (updateTable c sym s).draws = s.draws := rfl

/-! ### updateOrder0 -/

@[simp] theorem updateOrder0_rstate (sym : Byte) : (updateOrder0 sym s).rstate = s.rstate := rfl
@[simp] theorem updateOrder0_pc (sym : Byte) : (updateOrder0 sym s).pc = s.pc := rfl
@[simp] theorem updateOrder0_cause (sym : Byte) : (updateOrder0 sym s).cause = s.cause := rfl
@[simp] theorem updateOrder0_fpc (sym : Byte) : (updateOrder0 sym s).fpc = s.fpc := rfl
@[simp] theorem updateOrder0_fcmd (sym : Byte) : (updateOrder0 sym s).fcmd = s.fcmd := rfl
@[simp] theorem updateOrder0_mode (sym : Byte) : (updateOrder0 sym s).mode = s.mode := rfl
@[simp] theorem updateOrder0_qpend (sym : Byte) : (updateOrder0 sym s).qpend = s.qpend := rfl
@[simp] theorem updateOrder0_qscale (sym : Byte) : (updateOrder0 sym s).qscale = s.qscale := rfl
@[simp] theorem updateOrder0_ovr (sym : Byte) : (updateOrder0 sym s).ovr = s.ovr := rfl
@[simp] theorem updateOrder0_vovf (sym : Byte) : (updateOrder0 sym s).vovf = s.vovf := rfl
@[simp] theorem updateOrder0_pastend (sym : Byte) : (updateOrder0 sym s).pastend = s.pastend := rfl
@[simp] theorem updateOrder0_palsz (sym : Byte) : (updateOrder0 sym s).palsz = s.palsz := rfl
@[simp] theorem updateOrder0_opr (sym : Byte) : (updateOrder0 sym s).opr = s.opr := rfl
@[simp] theorem updateOrder0_low (sym : Byte) : (updateOrder0 sym s).low = s.low := rfl
@[simp] theorem updateOrder0_range (sym : Byte) : (updateOrder0 sym s).range = s.range := rfl
@[simp] theorem updateOrder0_code (sym : Byte) : (updateOrder0 sym s).code = s.code := rfl
@[simp] theorem updateOrder0_freqmax (sym : Byte) : (updateOrder0 sym s).freqmax = freqmaxUpdated s.order0 sym.toNat s := rfl
@[simp] theorem updateOrder0_ctxid (sym : Byte) : (updateOrder0 sym s).ctxid = s.ctxid := rfl
@[simp] theorem updateOrder0_tables (sym : Byte) : (updateOrder0 sym s).tables = s.tables := rfl
@[simp] theorem updateOrder0_order0 (sym : Byte) : (updateOrder0 sym s).order0 = s.order0.updated sym.toNat s.freqmax := rfl
@[simp] theorem updateOrder0_pacc (sym : Byte) : (updateOrder0 sym s).pacc = s.pacc := rfl
@[simp] theorem updateOrder0_pcnt (sym : Byte) : (updateOrder0 sym s).pcnt = s.pcnt := rfl
@[simp] theorem updateOrder0_ubuf (sym : Byte) : (updateOrder0 sym s).ubuf = s.ubuf := rfl
@[simp] theorem updateOrder0_ucnt (sym : Byte) : (updateOrder0 sym s).ucnt = s.ucnt := rfl
@[simp] theorem updateOrder0_inptr (sym : Byte) : (updateOrder0 sym s).inptr = s.inptr := rfl
@[simp] theorem updateOrder0_inlim (sym : Byte) : (updateOrder0 sym s).inlim = s.inlim := rfl
@[simp] theorem updateOrder0_outcnt (sym : Byte) : (updateOrder0 sym s).outcnt = s.outcnt := rfl
@[simp] theorem updateOrder0_out (sym : Byte) : (updateOrder0 sym s).out = s.out := rfl
@[simp] theorem updateOrder0_res (sym : Byte) : (updateOrder0 sym s).res = s.res := rfl
@[simp] theorem updateOrder0_cmd (sym : Byte) : (updateOrder0 sym s).cmd = s.cmd := rfl
@[simp] theorem updateOrder0_inp (sym : Byte) : (updateOrder0 sym s).inp = s.inp := rfl
@[simp] theorem updateOrder0_inlen (sym : Byte) : (updateOrder0 sym s).inlen = s.inlen := rfl
@[simp] theorem updateOrder0_resetting (sym : Byte) : (updateOrder0 sym s).resetting = s.resetting := rfl
@[simp] theorem updateOrder0_schedule (sym : Byte) : (updateOrder0 sym s).schedule = s.schedule := rfl
@[simp] theorem updateOrder0_window (sym : Byte) : (updateOrder0 sym s).window = s.window := rfl
@[simp] theorem updateOrder0_draws (sym : Byte) : (updateOrder0 sym s).draws = s.draws := rfl

/-! ### faultEntry -/

@[simp] theorem faultEntry_rstate (e : Cause) (w : Word) : (faultEntry e w s).rstate = .fault := rfl
@[simp] theorem faultEntry_pc (e : Cause) (w : Word) : (faultEntry e w s).pc = s.pc := rfl
@[simp] theorem faultEntry_cause (e : Cause) (w : Word) : (faultEntry e w s).cause = e.code := rfl
@[simp] theorem faultEntry_fpc (e : Cause) (w : Word) : (faultEntry e w s).fpc = s.pc := rfl
@[simp] theorem faultEntry_fcmd (e : Cause) (w : Word) : (faultEntry e w s).fcmd = w := rfl
@[simp] theorem faultEntry_mode (e : Cause) (w : Word) : (faultEntry e w s).mode = s.mode := rfl
@[simp] theorem faultEntry_qpend (e : Cause) (w : Word) : (faultEntry e w s).qpend = s.qpend := rfl
@[simp] theorem faultEntry_qscale (e : Cause) (w : Word) : (faultEntry e w s).qscale = s.qscale := rfl
@[simp] theorem faultEntry_ovr (e : Cause) (w : Word) : (faultEntry e w s).ovr = s.ovr := rfl
@[simp] theorem faultEntry_vovf (e : Cause) (w : Word) : (faultEntry e w s).vovf = s.vovf := rfl
@[simp] theorem faultEntry_pastend (e : Cause) (w : Word) : (faultEntry e w s).pastend = s.pastend := rfl
@[simp] theorem faultEntry_palsz (e : Cause) (w : Word) : (faultEntry e w s).palsz = s.palsz := rfl
@[simp] theorem faultEntry_opr (e : Cause) (w : Word) : (faultEntry e w s).opr = s.opr := rfl
@[simp] theorem faultEntry_low (e : Cause) (w : Word) : (faultEntry e w s).low = s.low := rfl
@[simp] theorem faultEntry_range (e : Cause) (w : Word) : (faultEntry e w s).range = s.range := rfl
@[simp] theorem faultEntry_code (e : Cause) (w : Word) : (faultEntry e w s).code = s.code := rfl
@[simp] theorem faultEntry_freqmax (e : Cause) (w : Word) : (faultEntry e w s).freqmax = s.freqmax := rfl
@[simp] theorem faultEntry_ctxid (e : Cause) (w : Word) : (faultEntry e w s).ctxid = s.ctxid := rfl
@[simp] theorem faultEntry_tables (e : Cause) (w : Word) : (faultEntry e w s).tables = s.tables := rfl
@[simp] theorem faultEntry_order0 (e : Cause) (w : Word) : (faultEntry e w s).order0 = s.order0 := rfl
@[simp] theorem faultEntry_pacc (e : Cause) (w : Word) : (faultEntry e w s).pacc = s.pacc := rfl
@[simp] theorem faultEntry_pcnt (e : Cause) (w : Word) : (faultEntry e w s).pcnt = s.pcnt := rfl
@[simp] theorem faultEntry_ubuf (e : Cause) (w : Word) : (faultEntry e w s).ubuf = s.ubuf := rfl
@[simp] theorem faultEntry_ucnt (e : Cause) (w : Word) : (faultEntry e w s).ucnt = s.ucnt := rfl
@[simp] theorem faultEntry_inptr (e : Cause) (w : Word) : (faultEntry e w s).inptr = s.inptr := rfl
@[simp] theorem faultEntry_inlim (e : Cause) (w : Word) : (faultEntry e w s).inlim = s.inlim := rfl
@[simp] theorem faultEntry_outcnt (e : Cause) (w : Word) : (faultEntry e w s).outcnt = s.outcnt := rfl
@[simp] theorem faultEntry_out (e : Cause) (w : Word) : (faultEntry e w s).out = s.out := rfl
@[simp] theorem faultEntry_res (e : Cause) (w : Word) : (faultEntry e w s).res = s.res := rfl
@[simp] theorem faultEntry_cmd (e : Cause) (w : Word) : (faultEntry e w s).cmd = s.cmd := rfl
@[simp] theorem faultEntry_inp (e : Cause) (w : Word) : (faultEntry e w s).inp = s.inp := rfl
@[simp] theorem faultEntry_inlen (e : Cause) (w : Word) : (faultEntry e w s).inlen = s.inlen := rfl
@[simp] theorem faultEntry_resetting (e : Cause) (w : Word) : (faultEntry e w s).resetting = s.resetting := rfl
@[simp] theorem faultEntry_schedule (e : Cause) (w : Word) : (faultEntry e w s).schedule = s.schedule := rfl
@[simp] theorem faultEntry_window (e : Cause) (w : Word) : (faultEntry e w s).window = s.window := rfl
@[simp] theorem faultEntry_draws (e : Cause) (w : Word) : (faultEntry e w s).draws = s.draws := rfl

/-! ### initCoderModel -/

@[simp] theorem initCoderModel_rstate (m : Mode) : (initCoderModel m s).rstate = s.rstate := rfl
@[simp] theorem initCoderModel_pc (m : Mode) : (initCoderModel m s).pc = s.pc := rfl
@[simp] theorem initCoderModel_cause (m : Mode) : (initCoderModel m s).cause = s.cause := rfl
@[simp] theorem initCoderModel_fpc (m : Mode) : (initCoderModel m s).fpc = s.fpc := rfl
@[simp] theorem initCoderModel_fcmd (m : Mode) : (initCoderModel m s).fcmd = s.fcmd := rfl
@[simp] theorem initCoderModel_mode (m : Mode) : (initCoderModel m s).mode = m := rfl
@[simp] theorem initCoderModel_qpend (m : Mode) : (initCoderModel m s).qpend = false := rfl
@[simp] theorem initCoderModel_qscale (m : Mode) : (initCoderModel m s).qscale = 0 := rfl
@[simp] theorem initCoderModel_ovr (m : Mode) : (initCoderModel m s).ovr = s.ovr := rfl
@[simp] theorem initCoderModel_vovf (m : Mode) : (initCoderModel m s).vovf = s.vovf := rfl
@[simp] theorem initCoderModel_pastend (m : Mode) : (initCoderModel m s).pastend = s.pastend := rfl
@[simp] theorem initCoderModel_palsz (m : Mode) : (initCoderModel m s).palsz = s.palsz := rfl
@[simp] theorem initCoderModel_opr (m : Mode) : (initCoderModel m s).opr = s.opr := rfl
@[simp] theorem initCoderModel_low (m : Mode) : (initCoderModel m s).low = 0 := rfl
@[simp] theorem initCoderModel_range (m : Mode) : (initCoderModel m s).range = 0xFFFFFFFF := rfl
@[simp] theorem initCoderModel_code (m : Mode) : (initCoderModel m s).code = 0 := rfl
@[simp] theorem initCoderModel_freqmax (m : Mode) : (initCoderModel m s).freqmax = Config.freqMaxStart := rfl
@[simp] theorem initCoderModel_ctxid (m : Mode) : (initCoderModel m s).ctxid = 0 := rfl
@[simp] theorem initCoderModel_tables (m : Mode) : (initCoderModel m s).tables = [] := rfl
@[simp] theorem initCoderModel_order0 (m : Mode) : (initCoderModel m s).order0 = Table.ones := rfl
@[simp] theorem initCoderModel_pacc (m : Mode) : (initCoderModel m s).pacc = 0 := rfl
@[simp] theorem initCoderModel_pcnt (m : Mode) : (initCoderModel m s).pcnt = 0 := rfl
@[simp] theorem initCoderModel_ubuf (m : Mode) : (initCoderModel m s).ubuf = 0 := rfl
@[simp] theorem initCoderModel_ucnt (m : Mode) : (initCoderModel m s).ucnt = 0 := rfl
@[simp] theorem initCoderModel_inptr (m : Mode) : (initCoderModel m s).inptr = s.inptr := rfl
@[simp] theorem initCoderModel_inlim (m : Mode) : (initCoderModel m s).inlim = s.inlim := rfl
@[simp] theorem initCoderModel_outcnt (m : Mode) : (initCoderModel m s).outcnt = s.outcnt := rfl
@[simp] theorem initCoderModel_out (m : Mode) : (initCoderModel m s).out = s.out := rfl
@[simp] theorem initCoderModel_res (m : Mode) : (initCoderModel m s).res = s.res := rfl
@[simp] theorem initCoderModel_cmd (m : Mode) : (initCoderModel m s).cmd = s.cmd := rfl
@[simp] theorem initCoderModel_inp (m : Mode) : (initCoderModel m s).inp = s.inp := rfl
@[simp] theorem initCoderModel_inlen (m : Mode) : (initCoderModel m s).inlen = s.inlen := rfl
@[simp] theorem initCoderModel_resetting (m : Mode) : (initCoderModel m s).resetting = s.resetting := rfl
@[simp] theorem initCoderModel_schedule (m : Mode) : (initCoderModel m s).schedule = s.schedule := rfl
@[simp] theorem initCoderModel_window (m : Mode) : (initCoderModel m s).window = s.window := rfl
@[simp] theorem initCoderModel_draws (m : Mode) : (initCoderModel m s).draws = s.draws := rfl

/-! ### dropTurn -/

@[simp] theorem dropTurn_rstate : (dropTurn s).rstate = s.rstate := rfl
@[simp] theorem dropTurn_pc : (dropTurn s).pc = s.pc := rfl
@[simp] theorem dropTurn_cause : (dropTurn s).cause = s.cause := rfl
@[simp] theorem dropTurn_fpc : (dropTurn s).fpc = s.fpc := rfl
@[simp] theorem dropTurn_fcmd : (dropTurn s).fcmd = s.fcmd := rfl
@[simp] theorem dropTurn_mode : (dropTurn s).mode = s.mode := rfl
@[simp] theorem dropTurn_qpend : (dropTurn s).qpend = s.qpend := rfl
@[simp] theorem dropTurn_qscale : (dropTurn s).qscale = s.qscale := rfl
@[simp] theorem dropTurn_ovr : (dropTurn s).ovr = s.ovr := rfl
@[simp] theorem dropTurn_vovf : (dropTurn s).vovf = s.vovf := rfl
@[simp] theorem dropTurn_pastend : (dropTurn s).pastend = s.pastend := rfl
@[simp] theorem dropTurn_palsz : (dropTurn s).palsz = s.palsz := rfl
@[simp] theorem dropTurn_opr : (dropTurn s).opr = s.opr := rfl
@[simp] theorem dropTurn_low : (dropTurn s).low = s.low := rfl
@[simp] theorem dropTurn_range : (dropTurn s).range = s.range := rfl
@[simp] theorem dropTurn_code : (dropTurn s).code = s.code := rfl
@[simp] theorem dropTurn_freqmax : (dropTurn s).freqmax = s.freqmax := rfl
@[simp] theorem dropTurn_ctxid : (dropTurn s).ctxid = s.ctxid := rfl
@[simp] theorem dropTurn_tables : (dropTurn s).tables = s.tables := rfl
@[simp] theorem dropTurn_order0 : (dropTurn s).order0 = s.order0 := rfl
@[simp] theorem dropTurn_pacc : (dropTurn s).pacc = s.pacc := rfl
@[simp] theorem dropTurn_pcnt : (dropTurn s).pcnt = s.pcnt := rfl
@[simp] theorem dropTurn_ubuf : (dropTurn s).ubuf = s.ubuf := rfl
@[simp] theorem dropTurn_ucnt : (dropTurn s).ucnt = s.ucnt := rfl
@[simp] theorem dropTurn_inptr : (dropTurn s).inptr = s.inptr := rfl
@[simp] theorem dropTurn_inlim : (dropTurn s).inlim = s.inlim := rfl
@[simp] theorem dropTurn_outcnt : (dropTurn s).outcnt = s.outcnt := rfl
@[simp] theorem dropTurn_out : (dropTurn s).out = s.out := rfl
@[simp] theorem dropTurn_res : (dropTurn s).res = s.res := rfl
@[simp] theorem dropTurn_cmd : (dropTurn s).cmd = s.cmd := rfl
@[simp] theorem dropTurn_inp : (dropTurn s).inp = s.inp := rfl
@[simp] theorem dropTurn_inlen : (dropTurn s).inlen = s.inlen := rfl
@[simp] theorem dropTurn_resetting : (dropTurn s).resetting = s.resetting := rfl
@[simp] theorem dropTurn_schedule : (dropTurn s).schedule = s.schedule.tail := rfl
@[simp] theorem dropTurn_window : (dropTurn s).window = s.window := rfl
@[simp] theorem dropTurn_draws : (dropTurn s).draws = s.draws := rfl

end Sys2Proof.Machine
end

