-- ==== Sys2Proof/Laws/Streams.lean ====
section
/-! SUPPORT. What the stream operations do, once: `InRead` (R62), runs of reads, and runs of writes (R64). -/

namespace Sys2Proof.Machine

/-- INPTR after `n` reads: it saturates at `2^32 − 1`. -/
def inptrAfter (p : Word) : Nat → Word
  | 0 => p
  | n + 1 => inptrAfter (if p = 0xFFFFFFFF then p else p + 1) n

@[simp] theorem inRead_fst (s : State) : (inRead s).1 = nextByte s := rfl

@[simp] theorem inRead_snd (s : State) : (inRead s).2 = afterRead s := rfl

/-- Before the end a read returns the byte at INPTR. -/
theorem nextByte_before (s : State) (h : s.inptr.toNat < inputEnd s) :
    s.inp[s.inptr.toNat]? = some (nextByte s) := by
  have hl : s.inptr.toNat < s.inp.length := Nat.lt_of_lt_of_le h (Nat.min_le_left _ _)
  simp [nextByte, h, List.getElem?_eq_getElem hl]

/-- At or beyond the end a read returns 0. -/
theorem nextByte_past (s : State) (h : inputEnd s ≤ s.inptr.toNat) : nextByte s = 0 := by
  simp [nextByte, Nat.not_lt.mpr h]

/-- A run of reads returns as many bytes as it was asked for. -/
theorem inReads_length (n : Nat) (s : State) : (inReads n s).1.length = n := by
  induction n generalizing s with
  | zero => rfl
  | succ n ih => simp [inReads, ih]

/-- A run of reads changes INPTR and PASTEND only. -/
theorem inReads_state (n : Nat) (s : State) :
    ∃ past, (inReads n s).2 = { s with inptr := inptrAfter s.inptr n, pastend := past } := by
  induction n generalizing s with
  | zero => exact ⟨s.pastend, rfl⟩
  | succ n ih =>
    obtain ⟨past, h⟩ := ih (inRead s).2
    refine ⟨past, ?_⟩
    rw [inReads, h]
    rfl

/-- A run of writes appends the bytes and counts them. -/
theorem outWrites_state (bs : List Byte) (s : State) :
    outWrites bs s = { s with out := s.out ++ bs, outcnt := s.outcnt + BitVec.ofNat 32 bs.length } := by
  induction bs generalizing s with
  | nil => simp [outWrites]
  | cons b bs ih =>
    rw [outWrites, ih]
    simp only [outWrite, List.append_assoc, List.cons_append, List.nil_append, List.length_cons]
    congr 1
    rw [BitVec.add_assoc]
    congr 1
    apply BitVec.eq_of_toNat_eq
    simp [Nat.add_comm]

end Sys2Proof.Machine
end

