-- ==== Sys2Proof/Laws/Coder.lean ====
section
/-! SUPPORT. Everything a coder primitive can do when it answers: the bounded loops against the relation
`Renorm`, and the state each primitive leaves. -/

namespace Sys2Proof.Machine

/-- The loop exits exactly when triggered with RANGE ≥ PROB_MAX (R172). -/
theorem renormTest_none {low range : Word} :
    renormTest low range = none ↔ triggered low range ∧ 2 ^ 14 ≤ range.toNat := by
  unfold renormTest triggered
  split
  · rename_i h
    split
    · rename_i h'; exact ⟨fun _ => ⟨h, h'⟩, fun _ => rfl⟩
    · rename_i h'; exact ⟨(fun e => nomatch e), fun e => absurd e.2 h'⟩
  · rename_i h
    exact ⟨(fun e => nomatch e), fun e => absurd e.1 h⟩

/-- The RANGE with which the loop goes on to its shift. -/
theorem renormTest_some {low range range' : Word} (h : renormTest low range = some range') :
    (triggered low range ∧ range.toNat < 2 ^ 14 ∧
      range' = BitVec.ofNat 32 (2 ^ 14 - low.toNat % 2 ^ 14)) ∨
    (¬ triggered low range ∧ range' = range) := by
  unfold renormTest at h
  unfold triggered
  split at h
  · rename_i ht
    split at h
    · cases h
    · rename_i hr
      exact .inl ⟨ht, Nat.lt_of_not_le hr, (Option.some.inj h).symm⟩
  · rename_i ht
    exact .inr ⟨ht, (Option.some.inj h).symm⟩

/-- One round of the loop is one step of the relation. -/
theorem Renorm.round {low range range' low2 range2 : Word} {bytes : List Byte}
    (h : renormTest low range = some range') (hr : Renorm (low <<< 8) (range' <<< 8) bytes low2 range2) :
    Renorm low range (low.extractLsb' 24 8 :: bytes) low2 range2 := by
  rcases renormTest_some h with ⟨ht, hs, rfl⟩ | ⟨ht, rfl⟩
  · exact .expand ht hs hr
  · exact .settled ht hr

/-- Writes and coder updates commute. -/
theorem outWrites_setCoder (bs : List Byte) (l r : Word) (s : State) :
    outWrites bs (setCoder l r s) = setCoder l r (outWrites bs s) := by
  simp [outWrites_state, setCoder]

theorem setCoder_setCoder (l r l' r' : Word) (s : State) :
    setCoder l r (setCoder l' r' s) = setCoder l r s := rfl

/-- What `RenormEnc` does when it answers: it writes the bytes of the relation and leaves its LOW and RANGE. -/
theorem renormEncLoop_ok {n : Nat} {s t : State} (h : renormEncLoop n s = .ok t) :
    ∃ bs, Renorm s.low s.range bs t.low t.range ∧ t = setCoder t.low t.range (outWrites bs s) := by
  induction n generalizing s with
  | zero => cases h
  | succ n ih =>
    unfold renormEncLoop at h
    split at h
    · rename_i hx
      cases h
      obtain ⟨ht, hr⟩ := renormTest_none.mp hx
      exact ⟨[], .exit ht hr, rfl⟩
    · rename_i range' hx
      obtain ⟨bs, hr, he⟩ := ih h
      refine ⟨s.low.extractLsb' 24 8 :: bs, .round hx hr, ?_⟩
      rw [outWrites_setCoder, setCoder_setCoder] at he
      exact he

/-- `RenormEnc` fails only by being stuck. -/
theorem renormEncLoop_error {n : Nat} {s : State} {a : Abort} (h : renormEncLoop n s = .error a) :
    a = .stuck .renormForever := by
  induction n generalizing s with
  | zero => cases h; rfl
  | succ n ih =>
    unfold renormEncLoop at h
    split at h
    · cases h
    · exact ih h

/-- A run of reads looks at no coder register. -/
theorem inReads_setCoder (n : Nat) (l r : Word) (s : State) :
    inReads n (setCoder l r s) = ((inReads n s).1, setCoder l r (inReads n s).2) := by
  induction n generalizing s with
  | zero => rfl
  | succ n ih =>
    have h : (inRead (setCoder l r s)).2 = setCoder l r (inRead s).2 := rfl
    simp only [inReads, h, ih]
    rfl

/-- A run of reads does not look at CODE. -/
theorem inReads_setCode (n : Nat) (c : Word) (s : State) :
    inReads n (setCode c s) = ((inReads n s).1, setCode c (inReads n s).2) := by
  induction n generalizing s with
  | zero => rfl
  | succ n ih =>
    have h : (inRead (setCode c s)).2 = setCode c (inRead s).2 := rfl
    simp only [inReads, h, ih]
    rfl

/-- The state after `n` reads, all shifted into CODE. -/
def shiftCodes (n : Nat) (s : State) : State :=
  setCode (codeAfter s.code (inReads n s).1) (inReads n s).2

/-- The first of several reads. -/
theorem shiftCodes_succ (n : Nat) (s : State) : shiftCodes (n + 1) s = shiftCodes n (shiftCode s) := by
  have h : shiftCode s = setCode ((s.code <<< 8) ||| (inRead s).1.setWidth 32) (inRead s).2 := rfl
  rw [h, shiftCodes, shiftCodes, inReads_setCode]
  rfl

/-- Reads and coder updates commute. -/
theorem shiftCodes_setCoder (n : Nat) (l r : Word) (s : State) :
    shiftCodes n (setCoder l r s) = setCoder l r (shiftCodes n s) := by
  rw [shiftCodes, inReads_setCoder]
  rfl

/-- What `RenormDec` does when it answers: as many reads as `RenormEnc` would write bytes, shifted into CODE,
and the same LOW and RANGE. -/
theorem renormDecLoop_ok {n : Nat} {s t : State} (h : renormDecLoop n s = .ok t) :
    ∃ bs, Renorm s.low s.range bs t.low t.range ∧
      t = setCoder t.low t.range (shiftCodes bs.length s) := by
  induction n generalizing s with
  | zero => cases h
  | succ n ih =>
    unfold renormDecLoop at h
    split at h
    · rename_i hx
      cases h
      obtain ⟨ht, hr⟩ := renormTest_none.mp hx
      exact ⟨[], .exit ht hr, rfl⟩
    · rename_i range' hx
      obtain ⟨bs, hr, he⟩ := ih h
      refine ⟨s.low.extractLsb' 24 8 :: bs, .round hx hr, ?_⟩
      rw [shiftCodes_setCoder, setCoder_setCoder] at he
      rw [List.length_cons, shiftCodes_succ]
      exact he

/-- `RenormDec` fails only by being stuck. -/
theorem renormDecLoop_error {n : Nat} {s : State} {a : Abort} (h : renormDecLoop n s = .error a) :
    a = .stuck .renormForever := by
  induction n generalizing s with
  | zero => cases h; rfl
  | succ n ih =>
    unfold renormDecLoop at h
    split at h
    · cases h
    · exact ih h

/-- What an encoder step does when it answers (R171). -/
theorem encStep_ok {lp hp sc : Nat} {s t : State} (h : encStep lp hp sc s = .ok t) :
    s.range.toNat / sc ≠ 0 ∧ ∃ bs,
      Renorm (s.low + BitVec.ofNat 32 (lp * (s.range.toNat / sc)))
        (BitVec.ofNat 32 (s.range.toNat / sc * (hp - lp))) bs t.low t.range ∧
      t = setCoder t.low t.range (outWrites bs s) := by
  unfold encStep at h
  simp only at h
  split at h
  · cases h
  · rename_i hr
    obtain ⟨bs, h1, h2⟩ := renormEncLoop_ok h
    rw [outWrites_setCoder, setCoder_setCoder] at h2
    exact ⟨hr, bs, h1, h2⟩

/-- What a decoder query does when it answers (R179). -/
theorem decQuery_ok {sc : Nat} {s t : State} {f : Word} (h : decQuery sc s = .ok (f, t)) :
    s.range.toNat / sc ≠ 0 ∧ f = (s.code - s.low) / BitVec.ofNat 32 (s.range.toNat / sc) ∧
      t = { s with range := BitVec.ofNat 32 (s.range.toNat / sc) } := by
  unfold decQuery at h
  simp only at h
  split at h
  · cases h
  · rename_i hr
    cases h
    exact ⟨hr, rfl, rfl⟩

/-- What a decoder update does when it answers (R182). -/
theorem decUpdate_ok {lp hp : Nat} {s t : State} (h : decUpdate lp hp s = .ok t) :
    ∃ bs, Renorm (s.low + BitVec.ofNat 32 (s.range.toNat * lp))
        (BitVec.ofNat 32 (s.range.toNat * (hp - lp))) bs t.low t.range ∧
      t = setCoder t.low t.range (shiftCodes bs.length s) := by
  obtain ⟨bs, h1, h2⟩ := renormDecLoop_ok h
  rw [shiftCodes_setCoder, setCoder_setCoder] at h2
  exact ⟨bs, h1, h2⟩

end Sys2Proof.Machine
end

