-- ==== Sys2Proof/Laws/Commands.lean ====
section
/-! SUPPORT. What the shared frame of every command can do: the checks (`require`), the completion (`complete`). -/

namespace Sys2Proof.Machine

/-- A check that holds lets the command go on. -/
theorem require_true {α : Type} {ok : Bool} (h : ok = true) (e : Cause) (k : Except Abort α) :
    require ok e k = k := by simp [require, h]

/-- A check that fails raises its cause. -/
theorem require_false {α : Type} {ok : Bool} (h : ok = false) (e : Cause) (k : Except Abort α) :
    require ok e k = .error (.raise e) := by simp [require, h]

/-- A command goes on only past a check that holds. -/
theorem require_ok {α : Type} {ok : Bool} {e : Cause} {k : Except Abort α} {a : α}
    (h : require ok e k = .ok a) : ok = true ∧ k = .ok a := by
  cases ok with
  | true => exact ⟨rfl, h⟩
  | false => cases h

/-- A command is stuck only past a check that holds. -/
theorem require_stuck {α : Type} {ok : Bool} {e : Cause} {k : Except Abort α} {f : Fault}
    (h : require ok e k = .error (.stuck f)) : ok = true ∧ k = .error (.stuck f) := by
  cases ok with
  | true => exact ⟨rfl, h⟩
  | false => cases h

/-- Everything a completed command can have done. -/
theorem complete_next {w : Word} {s t : State} {r : Except Abort State} (h : complete w s r = .next t) :
    (∃ u, r = .ok u ∧ t = { u with pc := s.pc + 1 }) ∨
    (∃ e, r = .error (.raise e) ∧ t = faultEntry e w s) := by
  match r, h with
  | .ok u, h => exact .inl ⟨u, rfl, by simpa [complete] using h.symm⟩
  | .error (.raise e), h => exact .inr ⟨e, rfl, by simpa [complete] using h.symm⟩

/-- A command stops without a next state only where its work is stuck. -/
theorem complete_fault {w : Word} {s : State} {r : Except Abort State} {f : Fault}
    (h : complete w s r = .fault f) : r = .error (.stuck f) := by
  match r, h with
  | .error (.stuck g), h => simpa [complete] using h

/-- No command is refused. -/
theorem complete_not_refused {w : Word} {s : State} {r : Except Abort State} {q : Refusal} :
    complete w s r ≠ .refused q := by
  match r with
  | .ok _ => simp [complete]
  | .error (.raise _) => simp [complete]
  | .error (.stuck _) => simp [complete]

@[simp] theorem complete_ok (w : Word) (s t : State) :
    complete w s (.ok t) = .next { t with pc := s.pc + 1 } := rfl

@[simp] theorem complete_raise (w : Word) (s : State) (e : Cause) :
    complete w s (.error (.raise e)) = .next (faultEntry e w s) := rfl

@[simp] theorem complete_stuck (w : Word) (s : State) (f : Fault) :
    complete w s (.error (.stuck f)) = .fault f := rfl

/-- Work in two parts answers only where both parts do. -/
theorem bind_ok {α β : Type} {x : Except Abort α} {f : α → Except Abort β} {b : β} (h : (x >>= f) = .ok b) :
    ∃ a, x = .ok a ∧ f a = .ok b := by
  cases x with
  | ok a => exact ⟨a, rfl, h⟩
  | error e => cases h

/-! ### Commands in a row -/

@[simp] theorem execAll_nil (s : State) : execAll [] s = some s := rfl

theorem execAll_cons {i : Instr} {s t : State} (h : exec i s = .next t) (is : List Instr) :
    execAll (i :: is) s = execAll is t := by simp [execAll, h]

theorem execAll_append {s t : State} {is : List Instr} (h : execAll is s = some t) (js : List Instr) :
    execAll (is ++ js) s = execAll js t := by
  induction is generalizing s with
  | nil => simp [execAll] at h; simp [h]
  | cons i is ih =>
    unfold execAll at h
    split at h
    · rename_i u hu
      rw [List.cons_append, execAll_cons hu]
      exact ih h
    · cases h
    · cases h

end Sys2Proof.Machine
end

