-- ==== Sys2Proof/Laws/Context.lean ====
section
/-! SUPPORT. The basic laws of the context memory: what a read returns after a write, and that every write keeps
the canonical form; and the same of one count of a table. -/

namespace Sys2Proof.Machine

/-- One count after another was set. -/
theorem Table.count_setCount (t : Table) (i j : Nat) (v : Word) :
    (t.setCount i v).count j = if i = j ∧ j < 257 then v else t.count j := by
  by_cases h : i = j
  · subst h
    by_cases h' : i < 257 <;> simp [Table.setCount, Table.count, h']
  · simp [Table.setCount, Table.count, h]

@[simp] theorem Table.setCount_sum (t : Table) (i : Nat) (v : Word) : (t.setCount i v).sum = t.sum := rfl

/-- Reading a table below every listed number finds nothing. -/
theorem ContextMem.read_below (m : ContextMem) (c : Nat) (h : ∀ e ∈ m, c < e.1) :
    ContextMem.read m c = Table.empty := by
  cases m with
  | nil => rfl
  | cons e m =>
    obtain ⟨k, t⟩ := e
    have : c < k := h (k, t) (by simp)
    simp [ContextMem.read, this]

/-- The table just written is the one read. -/
theorem ContextMem.read_write_same (m : ContextMem) (c : Nat) (t : Table)
    (hm : m.Pairwise fun a b => a.1 < b.1) : ContextMem.read (ContextMem.write m c t) c = t := by
  induction m with
  | nil =>
    by_cases ht : t = Table.empty <;> simp [ContextMem.write, ContextMem.read, ht]
  | cons e m ih =>
    obtain ⟨k, u⟩ := e
    obtain ⟨hk, hm'⟩ := List.pairwise_cons.mp hm
    rcases Nat.lt_trichotomy c k with h | h | h
    · by_cases ht : t = Table.empty <;> simp [ContextMem.write, ContextMem.read, ht, h]
    · subst h
      by_cases ht : t = Table.empty
      · simpa [ContextMem.write, ht] using ContextMem.read_below m c hk
      · simp [ContextMem.write, ContextMem.read, ht]
    · have h1 : ¬ c < k := by omega
      have h2 : c ≠ k := by omega
      simp [ContextMem.write, ContextMem.read, h1, h2, ih hm']

/-- Every other table reads as before. -/
theorem ContextMem.read_write_other (m : ContextMem) (c d : Nat) (t : Table) (hcd : d ≠ c)
    (hm : m.Pairwise fun a b => a.1 < b.1) :
    ContextMem.read (ContextMem.write m c t) d = ContextMem.read m d := by
  induction m with
  | nil =>
    by_cases ht : t = Table.empty <;> simp [ContextMem.write, ContextMem.read, ht, hcd]
  | cons e m ih =>
    obtain ⟨k, u⟩ := e
    obtain ⟨hk, hm'⟩ := List.pairwise_cons.mp hm
    rcases Nat.lt_trichotomy c k with h | h | h
    · by_cases ht : t = Table.empty
      · simp [ContextMem.write, ht, h]
      · by_cases hd : d < c
        · have : d < k := by omega
          simp [ContextMem.write, ContextMem.read, ht, h, hd, this]
        · simp [ContextMem.write, ContextMem.read, ht, h, hd, hcd]
    · subst h
      by_cases ht : t = Table.empty
      · by_cases hd : d < c
        · have hb : ContextMem.read m d = Table.empty :=
            ContextMem.read_below m d fun e he => lt_trans hd (hk e he)
          simp [ContextMem.write, ContextMem.read, ht, hd, hb]
        · simp [ContextMem.write, ContextMem.read, ht, hd, hcd]
      · simp [ContextMem.write, ContextMem.read, ht, hcd]
    · have h1 : ¬ c < k := by omega
      have h2 : c ≠ k := by omega
      simp [ContextMem.write, ContextMem.read, h1, h2, ih hm']

/-- What a write leaves listed: the written table, or an entry that was listed before. -/
theorem ContextMem.mem_write (m : ContextMem) (c : Nat) (t : Table) (e : Nat × Table)
    (h : e ∈ ContextMem.write m c t) : (e = (c, t) ∧ t ≠ Table.empty) ∨ e ∈ m := by
  induction m with
  | nil =>
    by_cases ht : t = Table.empty
    · simp [ContextMem.write, ht] at h
    · exact .inl ⟨by simpa [ContextMem.write, ht] using h, ht⟩
  | cons x m ih =>
    obtain ⟨k, u⟩ := x
    rcases Nat.lt_trichotomy c k with hc | hc | hc
    · by_cases ht : t = Table.empty
      · exact .inr (by simpa [ContextMem.write, ht, hc] using h)
      · simp [ContextMem.write, ht, hc] at h
        rcases h with h | h | h
        · exact .inl ⟨h, ht⟩
        · exact .inr (by simp [h])
        · exact .inr (by simp [h])
    · subst hc
      by_cases ht : t = Table.empty
      · exact .inr (by simp [ContextMem.write, ht] at h; simp [h])
      · simp [ContextMem.write, ht] at h
        rcases h with h | h
        · exact .inl ⟨h, ht⟩
        · exact .inr (by simp [h])
    · have h1 : ¬ c < k := by omega
      have h2 : c ≠ k := by omega
      simp [ContextMem.write, h1, h2] at h
      rcases h with h | h
      · exact .inr (by simp [h])
      · rcases ih h with h | h
        · exact .inl h
        · exact .inr (by simp [h])

/-- Every write keeps the canonical form. -/
theorem ContextMem.write_wf (m : ContextMem) (c : Nat) (t : Table) (hc : c < 256) (h : ContextMem.wf m) :
    ContextMem.wf (ContextMem.write m c t) := by
  refine ⟨?_, fun e he => ?_⟩
  · have hp := h.1
    clear h
    induction m with
    | nil => by_cases ht : t = Table.empty <;> simp [ContextMem.write, ht]
    | cons x m ih =>
      obtain ⟨k, u⟩ := x
      obtain ⟨hk, hm⟩ := List.pairwise_cons.mp hp
      rcases Nat.lt_trichotomy c k with h | h | h
      · by_cases ht : t = Table.empty
        · simpa [ContextMem.write, ht, h] using hp
        · simp only [ContextMem.write, h, ht, if_true, if_false]
          refine List.pairwise_cons.mpr ⟨fun e he => ?_, hp⟩
          rcases List.mem_cons.mp he with rfl | he
          · exact h
          · exact lt_trans h (hk e he)
      · subst h
        by_cases ht : t = Table.empty
        · simpa [ContextMem.write, ht] using hm
        · simpa [ContextMem.write, ht] using List.pairwise_cons.mpr ⟨hk, hm⟩
      · have h1 : ¬ c < k := by omega
        have h2 : c ≠ k := by omega
        simp only [ContextMem.write, h1, h2, if_false]
        refine List.pairwise_cons.mpr ⟨fun e he => ?_, ih hm⟩
        rcases ContextMem.mem_write m c t e he with ⟨rfl, -⟩ | he
        · exact h
        · exact hk e he
  · rcases ContextMem.mem_write m c t e he with ⟨rfl, ht⟩ | he
    · exact ⟨hc, ht⟩
    · exact h.2 e he

/-- The context memory at reset is canonical. -/
theorem reset_tables_wf : ContextMem.wf State.reset.tables := by decide

/-- `T[c]` after it is written. -/
theorem readTable_writeTable_same (c : BitVec 8) (t : Table) (s : State) (h : ContextMem.wf s.tables) :
    readTable c (writeTable c t s) = t := ContextMem.read_write_same s.tables c.toNat t h.1

/-- `T[d]` after another table is written. -/
theorem readTable_writeTable_other (c d : BitVec 8) (t : Table) (s : State) (h : ContextMem.wf s.tables)
    (hcd : d ≠ c) : readTable d (writeTable c t s) = readTable d s :=
  ContextMem.read_write_other s.tables c.toNat d.toNat t (fun he => hcd (BitVec.eq_of_toNat_eq he)) h.1

end Sys2Proof.Machine
end

