-- ==== Sys2Proof/Laws/Encoding.lean ====
section
/-! SUPPORT. The small lemmas of the encoding: the two fields of an encoded command. -/

namespace Sys2Proof

/-- The upper part of a concatenation. -/
theorem extract_high {m n : Nat} (a : BitVec m) (b : BitVec n) : (a ++ b).extractLsb' n m = a := by
  apply BitVec.eq_of_getLsbD_eq
  intro k hk
  have h : ¬ n + k < n := by omega
  simp only [BitVec.getLsbD_extractLsb', hk, decide_true, Bool.true_and, BitVec.getLsbD_append, h, if_false,
    Nat.add_sub_cancel_left]

/-- The lower part of a concatenation. -/
theorem extract_low {m n : Nat} (a : BitVec m) (b : BitVec n) : (a ++ b).extractLsb' 0 n = b := by
  apply BitVec.eq_of_getLsbD_eq
  intro k hk
  simp only [BitVec.getLsbD_extractLsb', hk, decide_true, Bool.true_and, BitVec.getLsbD_append, Nat.zero_add]
  simp

/-- The opcode field of an encoded command is its opcode (R90). -/
theorem opField_encode (i : Instr) : opField (encode i) = opcode i := extract_high (opcode i) (immediate i)

/-- The immediate field of an encoded command is its immediate (R90). -/
theorem immField_encode (i : Instr) : immField (encode i) = immediate i :=
  extract_low (opcode i) (immediate i)

end Sys2Proof
end

