-- ==== Sys2Proof/Laws/PerInstr.lean ====
section
/-! SUPPORT. Statements made of every command as syntax, one lemma per constructor. -/

namespace Sys2Proof.Laws.OpcodeField

/-- The top byte of a command's word is a defined opcode (`30_encoding.md` R94): below 0x22, and none of the
gaps 0x09..0x0F, 0x16, 0x17, 0x1E, 0x1F of R95. -/
def Statement (i : Instr) : Prop :=
  (opField (encode i)).toNat < 0x22 ∧
    (opField (encode i)).toNat ∉
      [0x09, 0x0A, 0x0B, 0x0C, 0x0D, 0x0E, 0x0F, 0x16, 0x17, 0x1E, 0x1F]

theorem nop : Statement (.nop) := by
  rw [Statement, opField_encode, opcode]; decide

theorem halt : Statement (.halt) := by
  rw [Statement, opField_encode, opcode]; decide

theorem ldl (u16 : BitVec 16) : Statement (.ldl u16) := by
  rw [Statement, opField_encode, opcode]; decide

theorem ldh (u16 : BitVec 16) : Statement (.ldh u16) := by
  rw [Statement, opField_encode, opcode]; decide

theorem cfg (u8 : BitVec 8) : Statement (.cfg u8) := by
  rw [Statement, opField_encode, opcode]; decide

theorem rdreg (reg : BitVec 5) : Statement (.rdreg reg) := by
  rw [Statement, opField_encode, opcode]; decide

theorem rdfreq (S O : Bool) (i : BitVec 9) (c : BitVec 8) : Statement (.rdfreq S O i c) := by
  rw [Statement, opField_encode, opcode]; decide

theorem seek : Statement (.seek) := by
  rw [Statement, opField_encode, opcode]; decide

theorem limit : Statement (.limit) := by
  rw [Statement, opField_encode, opcode]; decide

theorem encInit : Statement (.encInit) := by
  rw [Statement, opField_encode, opcode]; decide

theorem encFlush : Statement (.encFlush) := by
  rw [Statement, opField_encode, opcode]; decide

theorem acEnc (u16 : BitVec 16) : Statement (.acEnc u16) := by
  rw [Statement, opField_encode, opcode]; decide

theorem ppmEnc (u8 : BitVec 8) : Statement (.ppmEnc u8) := by
  rw [Statement, opField_encode, opcode]; decide

theorem pixEnc (u8 : BitVec 8) : Statement (.pixEnc u8) := by
  rw [Statement, opField_encode, opcode]; decide

theorem pixFlush : Statement (.pixFlush) := by
  rw [Statement, opField_encode, opcode]; decide

theorem decInit : Statement (.decInit) := by
  rw [Statement, opField_encode, opcode]; decide

theorem decEnd : Statement (.decEnd) := by
  rw [Statement, opField_encode, opcode]; decide

theorem acDfreq (u16 : BitVec 16) : Statement (.acDfreq u16) := by
  rw [Statement, opField_encode, opcode]; decide

theorem acDupd : Statement (.acDupd) := by
  rw [Statement, opField_encode, opcode]; decide

theorem ppmDec : Statement (.ppmDec) := by
  rw [Statement, opField_encode, opcode]; decide

theorem pixDec : Statement (.pixDec) := by
  rw [Statement, opField_encode, opcode]; decide

theorem varEnc : Statement (.varEnc) := by
  rw [Statement, opField_encode, opcode]; decide

theorem varDec : Statement (.varDec) := by
  rw [Statement, opField_encode, opcode]; decide

end Sys2Proof.Laws.OpcodeField
end

