-- ==== Sys2Proof/Laws/Ppm.lean ====
section
/-! SUPPORT. The table procedures of the PPM model and what the symbol procedures can do when they answer. -/

namespace Sys2Proof.Machine

/-! ### Lists of counts -/

theorem sumCounts_append (a b : List Word) : sumCounts (a ++ b) = sumCounts a + sumCounts b := by
  induction a with
  | nil => simp [sumCounts]
  | cons x a ih => simp [sumCounts, ih, Nat.add_assoc]

/-- The running total below `k`, then count `k`, is the running total below `k + 1`. -/
theorem sumCounts_take_succ (l : List Word) (k : Nat) (h : k < l.length) :
    sumCounts (l.take (k + 1)) = sumCounts (l.take k) + l[k].toNat := by
  rw [List.take_succ_eq_append_getElem h, sumCounts_append]
  simp [sumCounts]

/-- A running total never exceeds the total. -/
theorem sumCounts_take_le (l : List Word) (k : Nat) : sumCounts (l.take k) ≤ sumCounts l := by
  conv_rhs => rw [← List.take_append_drop k l, sumCounts_append]
  exact Nat.le_add_right _ _

/-- A count as an element of the list of counts. -/
theorem Table.count_eq (t : Table) {i : Nat} (h : i < 257) :
    t.count i = t.freq.toList[i]'(by simpa using h) := by
  simp [Table.count, h]

/-- Below a symbol, plus the symbol, is at most the total (R222): every encoder triple fits its table. -/
theorem Table.cumLo_add_count_le (t : Table) {i : Nat} (h : i < 257) :
    t.cumLo i + (t.count i).toNat ≤ t.total := by
  have hl : i < t.freq.toList.length := by simpa using h
  rw [Table.count_eq t h, Table.cumLo, ← sumCounts_take_succ _ _ hl]
  exact sumCounts_take_le _ _

/-- Halving rounds up (R225). -/
theorem halfUp_toNat (f : Word) : (halfUp f).toNat = (f.toNat + 1) / 2 := by
  have h1 : (f &&& 1#32).toNat = f.toNat % 2 := by simp [Nat.and_one_is_mod]
  have h2 : (f >>> 1).toNat = f.toNat / 2 := by simp [Nat.shiftRight_eq_div_pow]
  have := f.isLt
  unfold halfUp
  rw [BitVec.toNat_add, h1, h2]
  omega

/-! ### The search -/

/-- What the scan finds (R226): an index whose interval contains `f`. -/
theorem searchFrom_some {f i t j lp hp : Nat} {l : List Word} (h : searchFrom f i t l = some (j, lp, hp))
    (ht : t ≤ f) : ∃ k, ∃ hk : k < l.length, j = i + k ∧ lp = t + sumCounts (l.take k) ∧
      hp = lp + l[k].toNat ∧ lp ≤ f ∧ f < hp := by
  induction l generalizing i t with
  | nil => cases h
  | cons x l ih =>
    unfold searchFrom at h
    split at h
    · rename_i hx
      cases h
      exact ⟨0, by simp, by simp, by simp [sumCounts], by simp, ht, hx⟩
    · rename_i hx
      obtain ⟨k, hk, h1, h2, h3, h4, h5⟩ := ih h (Nat.le_of_not_lt hx)
      exact ⟨k + 1, by simpa using hk, by omega, by simp [sumCounts]; omega, by simpa using h3, h4, h5⟩

/-- What the scan misses: no running total exceeds `f`. -/
theorem searchFrom_none {f i t : Nat} {l : List Word} (h : searchFrom f i t l = none) (ht : t ≤ f) :
    t + sumCounts l ≤ f := by
  induction l generalizing i t with
  | nil => simpa [sumCounts] using ht
  | cons x l ih =>
    unfold searchFrom at h
    split at h
    · cases h
    · rename_i hx
      have := ih h (Nat.le_of_not_lt hx)
      simp [sumCounts]; omega

/-- The clamp's index (R226) is the index of a non-zero count. -/
theorem lastNonZero_some {i j : Nat} {l : List Word} (h : lastNonZero i l = some j) :
    ∃ k, ∃ hk : k < l.length, j = i + k ∧ l[k] ≠ 0 ∧ ∀ m (hm : m < l.length), k < m → l[m] = 0 := by
  induction l generalizing i with
  | nil => cases h
  | cons x l ih =>
    unfold lastNonZero at h
    split at h
    · rename_i j' hj
      cases h
      obtain ⟨k, hk, h1, h2, h3⟩ := ih hj
      refine ⟨k + 1, by simpa using hk, by omega, by simpa using h2, ?_⟩
      intro m hm hkm
      match m with
      | 0 => omega
      | m + 1 => simpa using h3 m (by simpa using hm) (by omega)
    · rename_i hn
      split at h
      · cases h
      · rename_i hx
        cases h
        refine ⟨0, by simp, by simp, by simpa using hx, ?_⟩
        intro m hm hkm
        match m with
        | 0 => omega
        | m + 1 =>
          have : ∀ (i : Nat) (l : List Word), lastNonZero i l = none →
              ∀ m (hm : m < l.length), l[m] = 0 := by
            intro i l
            induction l generalizing i with
            | nil => intro _ m hm; simp at hm
            | cons y l ih =>
              intro hn m hm
              unfold lastNonZero at hn
              split at hn
              · cases hn
              · rename_i hl
                split at hn
                · rename_i hy
                  match m with
                  | 0 => simpa using hy
                  | m + 1 => simpa using ih (i + 1) hl m (by simpa using hm)
                · cases hn
          simpa using this _ l hn m (by simpa using hm)

/-- Counts that are all 0 add up to 0. -/
theorem sumCounts_zero {l : List Word} (h : ∀ m (hm : m < l.length), l[m] = 0) : sumCounts l = 0 := by
  induction l with
  | nil => rfl
  | cons x l ih =>
    have hx : x = 0 := h 0 (by simp)
    have := ih fun m hm => h (m + 1) (by simpa using hm)
    simp [sumCounts, hx, this]

/-- Everything a search can find (R226), over the first `n` counts: an index with the bounds of its share, either
the one whose share holds `f`, or, with OVR set, the clamp where no running total exceeds `f`. -/
theorem search_ok {t : Table} {n f i lp hp : Nat} {s u : State} (hn : n ≤ 257)
    (h : search t n f s = .ok ((i, lp, hp), u)) :
    i < n ∧ lp = t.cumLo i ∧ hp = t.cumLo i + (t.count i).toNat ∧ lp < hp ∧
      (u = s ∧ lp ≤ f ∧ f < hp ∨ u = setOvr s ∧ t.cumLo n ≤ f ∧ hp = t.cumLo n) := by
  have hlen : t.freq.toList.length = 257 := by simp
  have htake : (t.freq.toList.take n).length = n := by simp [hlen, hn]
  have hget : ∀ k (hk : k < (t.freq.toList.take n).length),
      (t.freq.toList.take n)[k] = t.count k ∧ sumCounts ((t.freq.toList.take n).take k) = t.cumLo k := by
    intro k hk
    rw [htake] at hk
    refine ⟨?_, ?_⟩
    · rw [List.getElem_take, ← Table.count_eq t (by omega)]
    · rw [List.take_take, Nat.min_eq_left (Nat.le_of_lt hk)]; rfl
  unfold search at h
  simp only at h
  split at h
  · rename_i hit hs
    cases h
    obtain ⟨k, hk, h1, h2, h3, h4, h5⟩ := searchFrom_some hs (Nat.zero_le f)
    obtain ⟨g1, g2⟩ := hget k hk
    rw [Nat.zero_add] at h1 h2
    subst h1
    rw [g2] at h2
    rw [g1] at h3
    rw [htake] at hk
    exact ⟨hk, h2, by omega, by omega, .inl ⟨rfl, h4, h5⟩⟩
  · rename_i hs
    split at h
    · cases h
    · rename_i j hj
      cases h
      obtain ⟨k, hk, h1, h2, h3⟩ := lastNonZero_some hj
      obtain ⟨g1, g2⟩ := hget k hk
      rw [Nat.zero_add] at h1
      subst h1
      have hf := searchFrom_none hs (Nat.zero_le f)
      have hcut : sumCounts (t.freq.toList.take n) = t.cumLo i + (t.count i).toNat := by
        conv_lhs => rw [← List.take_append_drop (i + 1) (t.freq.toList.take n)]
        rw [sumCounts_append, sumCounts_take_succ _ _ hk, g1, g2, sumCounts_zero, Nat.add_zero]
        intro m hm
        rw [List.getElem_drop]
        exact h3 (i + 1 + m) (by rw [List.length_drop] at hm; omega) (by omega)
      have hpos : (t.count i).toNat ≠ 0 := fun h0 => h2 (by rw [g1]; exact BitVec.eq_of_toNat_eq h0)
      rw [htake] at hk
      have hcum : t.cumLo n = sumCounts (t.freq.toList.take n) := rfl
      exact ⟨hk, by omega, by omega, by omega, .inr ⟨rfl, by omega, by omega⟩⟩

/-! ### The symbol procedures -/

/-- Everything a query, search and update on one table can do when they answer (R228). -/
theorem decodeFrom_ok {t : Table} {n i : Nat} {s u : State} (h : decodeFrom t n s = .ok (i, u)) :
    ∃ (f : Word) (s1 s2 : State) (lp hp : Nat), decQuery t.sum.toNat s = .ok (f, s1) ∧
      search t n f.toNat s1 = .ok ((i, lp, hp), s2) ∧ decUpdate lp hp s2 = .ok u := by
  obtain ⟨⟨f, s1⟩, h1, h⟩ := bind_ok h
  obtain ⟨⟨⟨j, lp, hp⟩, s2⟩, h2, h⟩ := bind_ok h
  obtain ⟨s3, h3, h⟩ := bind_ok h
  cases h
  exact ⟨f, s1, s2, lp, hp, h1, h2, h3⟩

/-- Everything decoding from the order-0 table can do when it answers (R228). -/
theorem decOrder0_ok {c : BitVec 8} {s t : State} {sym : Byte} (h : decOrder0 c s = .ok (sym, t)) :
    ∃ i u, decodeFrom s.order0 256 s = .ok (i, u) ∧ sym = BitVec.ofNat 8 i ∧
      t = pushCtx sym (updateOrder0 sym (novelTable c sym u)) := by
  obtain ⟨⟨i, u⟩, h1, h⟩ := bind_ok h
  cases h
  exact ⟨i, u, h1, rfl, rfl⟩

/-- Everything decoding a symbol can do when it answers (R228): the order-0 path under an empty context, a symbol
of the context, or the escape and then the order-0 path. -/
theorem ppmDecCore_ok {s t : State} {sym : Byte} (h : ppmDecCore s = .ok (sym, t)) :
    ((readTable (ctxIndex s) s).sum = 0 ∧ decOrder0 (ctxIndex s) s = .ok (sym, t)) ∨
    ((readTable (ctxIndex s) s).sum ≠ 0 ∧ ∃ i u, decodeFrom (readTable (ctxIndex s) s) 257 s = .ok (i, u) ∧
      (i = escape ∧ decOrder0 (ctxIndex s) (escapeTable (ctxIndex s) u) = .ok (sym, t) ∨
        i ≠ escape ∧ sym = BitVec.ofNat 8 i ∧ t = pushCtx sym (updateTable (ctxIndex s) sym u))) := by
  unfold ppmDecCore at h
  simp only at h
  split at h
  · rename_i h0
    exact .inl ⟨h0, h⟩
  · rename_i h0
    obtain ⟨⟨i, u⟩, h1, h⟩ := bind_ok h
    refine .inr ⟨h0, i, u, h1, ?_⟩
    simp only at h
    split at h
    · rename_i hi
      exact .inl ⟨hi, h⟩
    · rename_i hi
      cases h
      exact .inr ⟨hi, rfl, rfl⟩

/-- What encoding a symbol can do when it answers (R227): a hit, or the order-0 path after an escape from a
non-empty table. -/
theorem ppmEncCore_ok {sym : Byte} {s t : State} (h : ppmEncCore sym s = .ok t) :
    (hits (readTable (ctxIndex s) s) sym = true ∧ ∃ s1,
      encodeFrom (readTable (ctxIndex s) s) sym.toNat s = .ok s1 ∧
      t = pushCtx sym (updateTable (ctxIndex s) sym s1)) ∨
    (hits (readTable (ctxIndex s) s) sym = false ∧ ∃ s1 s2, encEscape (ctxIndex s) s = .ok s1 ∧
      encodeFrom s1.order0 sym.toNat s1 = .ok s2 ∧
      t = pushCtx sym (updateOrder0 sym (novelTable (ctxIndex s) sym s2))) := by
  unfold ppmEncCore at h
  simp only at h
  split at h
  · rename_i hh
    obtain ⟨s1, h1, h⟩ := bind_ok h
    cases h
    exact .inl ⟨hh, s1, h1, rfl⟩
  · rename_i hh
    obtain ⟨s1, h1, h⟩ := bind_ok h
    obtain ⟨s2, h2, h⟩ := bind_ok h
    cases h
    exact .inr ⟨by simpa using hh, s1, s2, h1, h2, rfl⟩

end Sys2Proof.Machine
end

