-- ==== Sys2Proof/Tests/Slice0.lean ====
section
/-! SUPPORT. The model's own tests: ill-formed terms refused, words written out from the formats of
`30_encoding.md` R91 and R94, one step of each command with the result the spec's vectors give, and a
witness for the hypotheses of every statement. -/

namespace Sys2Proof.Tests

open Sys2Proof Sys2Proof.Machine

set_option Elab.async false

/-! ### WellFormed refuses ill-formed terms (R93; vectors V38, V40, V41, V42) -/

theorem test_wf_rdreg_21 : (Instr.rdreg 21).wf = false := by decide
theorem test_wf_rdreg_20 : (Instr.rdreg 20).wf = true := by decide
theorem test_wf_rdfreq_index_257 : (Instr.rdfreq false false 257 0).wf = false := by decide
theorem test_wf_rdfreq_order0_table_1 : (Instr.rdfreq false true 0 1).wf = false := by decide
theorem test_wf_rdfreq_sum_index_1 : (Instr.rdfreq true false 1 0).wf = false := by decide
theorem test_wf_rdfreq_boundary : (Instr.rdfreq false false 256 255).wf = true := by decide

/-! ### Decoding: the opcode of R94 in bits 31..24, the fields of R91 where the formats put them -/

theorem test_decode_nop : decode 0b00000000000000000000000000000000 = .ok .nop := by decide
theorem test_decode_halt : decode 0b00000001000000000000000000000000 = .ok .halt := by decide
theorem test_decode_ldl : decode 0b00000010000000001000000000000011 = .ok (.ldl 0x8003) := by decide
theorem test_decode_ldh : decode 0b00000011000000000001001000110100 = .ok (.ldh 0x1234) := by decide
theorem test_decode_cfg : decode 0b00000100000000000000000010000001 = .ok (.cfg 0x81) := by decide
theorem test_decode_rdreg : decode 0b00000101000000000000000000010100 = .ok (.rdreg 20) := by decide
/-- `c = 0x03`, `i = 256` (bit 16), `O = 0` (bit 17), `S = 0` (bit 18). -/
theorem test_decode_rdfreq_escape : decode 0b00000110000000010000000000000011 = .ok (.rdfreq false false 256 3) := by
  decide
/-- `O` is bit 17, `S` is bit 18. -/
theorem test_decode_rdfreq_flags :
    decode 0b00000110000000100100000100000000 = .ok (.rdfreq false true 65 0) ∧
    decode 0b00000110000001000000000010000000 = .ok (.rdfreq true false 0 128) := by decide
theorem test_decode_seek : decode 0b00000111000000000000000000000000 = .ok .seek := by decide
theorem test_decode_limit : decode 0b00001000000000000000000000000000 = .ok .limit := by decide
theorem test_decode_encInit : decode 0b00010000000000000000000000000000 = .ok .encInit := by decide
theorem test_decode_encFlush : decode 0b00010001000000000000000000000000 = .ok .encFlush := by decide
theorem test_decode_acEnc : decode 0b00010010000000000100000000000000 = .ok (.acEnc 16384) := by decide
theorem test_decode_ppmEnc : decode 0b00010011000000000000000001000001 = .ok (.ppmEnc 0x41) := by decide
theorem test_decode_pixEnc : decode 0b00010100000000000000000000011111 = .ok (.pixEnc 31) := by decide
theorem test_decode_pixFlush : decode 0b00010101000000000000000000000000 = .ok .pixFlush := by decide
theorem test_decode_decInit : decode 0b00011000000000000000000000000000 = .ok .decInit := by decide
theorem test_decode_decEnd : decode 0b00011001000000000000000000000000 = .ok .decEnd := by decide
theorem test_decode_acDfreq : decode 0b00011010000000000000000000000011 = .ok (.acDfreq 3) := by decide
theorem test_decode_acDupd : decode 0b00011011000000000000000000000000 = .ok .acDupd := by decide
theorem test_decode_ppmDec : decode 0b00011100000000000000000000000000 = .ok .ppmDec := by decide
theorem test_decode_pixDec : decode 0b00011101000000000000000000000000 = .ok .pixDec := by decide
theorem test_decode_varEnc : decode 0b00100000000000000000000000000000 = .ok .varEnc := by decide
theorem test_decode_varDec : decode 0b00100001000000000000000000000000 = .ok .varDec := by decide

/-- Vectors V36 to V43: why each word is illegal. -/
theorem test_decode_illegal :
    decode 0x09000000 = .error .undefinedOpcode ∧ decode 0x00000001 = .error .reservedBit ∧
    decode 0x05000015 = .error .badField ∧ decode 0x05000020 = .error .reservedBit ∧
    decode 0x06010100 = .error .badField ∧ decode 0x06020001 = .error .badField ∧
    decode 0x06040100 = .error .badField ∧ decode 0x06080000 = .error .reservedBit := by decide

/-- R69: most significant byte first; and fewer than four bytes are no word. -/
theorem test_decodeBytes :
    decodeBytes [0x05, 0x00, 0x00, 0x08] = .ok (.rdreg 8, []) ∧
    decodeBytes [0x05, 0x00, 0x00] = .error .truncated := by decide

/-- The host's numbering of a word, and a word that is none. -/
theorem test_decodeTableWord :
    decodeTableWord 32 0x13000041 = some (.ppmEnc 0x41) ∧ decodeTableWord 32 0x09000000 = none := by decide

/-! ### States -/

/-- A field of the next state, where there is one. -/
def after {α : Type} (f : State → α) (o : Host.Outcome State Fault Refusal) : Option α :=
  match o with
  | .next t => some (f t)
  | .fault _ | .refused _ => none

/-- A result the test below finds is a result. -/
theorem next_of_after {α : Type} {f : State → α} {o : Host.Outcome State Fault Refusal} {a : α}
    (h : after f o = some a) : ∃ t, o = .next t ∧ f t = a := by
  cases o with
  | next t => exact ⟨t, rfl, Option.some.inj h⟩
  | fault _ => cases h
  | refused _ => cases h

/-- Running in mode `m`, everything else as after reset (which is also how an INIT leaves the coder). -/
def inMode (m : Mode) : State := { State.reset with rstate := .run, mode := m }

/-- Running one word. -/
def running (w : Word) : State := { State.reset with rstate := .run, cmd := [w] }

/-- The table after one novel symbol: its count 1, the escape's 1, the sum 2 (R223; vector V25's `T[0]`). -/
def once (sym : Byte) : Table := Table.empty.novel sym.toNat

/-- An encoder whose context 0 holds 0x41. -/
def encHit : State := { inMode .enc with tables := [(0, once 0x41)] }

/-- A decoder whose context 0 holds 0x41, with CODE in the middle of 0x41's half. -/
def decHit : State := { inMode .dec with tables := [(0, once 0x41)], code := 0x10000000 }

/-- The host moves next. -/
def withHost (m : HostMove) (s : State) : State := { s with schedule := [some m] }

/-! ### One step of each command; the expected values are the spec's -/

/-- R120's example. -/
theorem test_nop : after (·.pc) (exec .nop { inMode .idle with pc := 5 }) = some 6 := by decide
/-- V2. -/
theorem test_halt : after (fun t => (t.rstate, t.pc)) (exec .halt (inMode .idle)) = some (.done, 1) := by decide
/-- R122's example. -/
theorem test_ldl : after (·.opr) (exec (.ldl 0xABCD) { inMode .idle with opr := 0x12345678 }) = some 0x1234ABCD := by
  decide
/-- R123's example. -/
theorem test_ldh : after (·.opr) (exec (.ldh 1) { inMode .idle with opr := 0x1234ABCD }) = some 0x0001ABCD := by
  decide
/-- R124's examples. -/
theorem test_cfg_5 : after cfgWord (exec (.cfg 5) (inMode .idle)) = some 0x00052305 := by decide
theorem test_cfg_0 : after cfgWord (exec (.cfg 0) { inMode .idle with palsz := 9 }) = some 0x01001800 := by decide
/-- V8's STATUS: RUN, DEC, PASTEND. -/
theorem test_rdreg_status : after (·.res) (exec (.rdreg 1) { inMode .dec with pastend := true }) = some [0x89] := by
  decide
/-- R125's example. -/
theorem test_rdreg_range : after (·.res) (exec (.rdreg 8) (inMode .idle)) = some [0xFFFFFFFF] := by decide
/-- R126's examples. -/
theorem test_rdfreq_order0_sum : after (·.res) (exec (.rdfreq true true 0 0) (inMode .idle)) = some [257] := by
  decide
theorem test_rdfreq_escape : after (·.res) (exec (.rdfreq false true 256 0) (inMode .idle)) = some [1] := by
  decide +kernel
/-- R127's example. -/
theorem test_seek : after (·.inptr) (exec .seek { inMode .idle with opr := 7 }) = some 7 := by decide
/-- R128's example. -/
theorem test_limit : after (·.inlim) (exec .limit { inMode .idle with opr := 2 }) = some 2 := by decide
/-- R176's example, from a decoder that owes an update. -/
theorem test_encInit :
    after (fun t => (t.mode, t.low, t.range, t.qpend))
      (exec .encInit { inMode .dec with qpend := true, low := 9, range := 1 }) = some (.enc, 0, 0xFFFFFFFF, false) := by
  decide
/-- R177's example: OUT = 7F FF FF FF, LOW = 0, IDLE. -/
theorem test_encFlush :
    after (fun t => (t.out, t.low, t.mode)) (exec .encFlush { inMode .enc with low := 0x7FFFFFFF, range := 0x7FFFFFFF }) =
      some ([0x7F, 0xFF, 0xFF, 0xFF], 0, .idle) := by decide +kernel
/-- V55's rule: a partly filled byte refuses the flush with E_SEQ. -/
theorem test_encFlush_partial :
    after (fun t => (t.cause, t.out)) (exec .encFlush { inMode .enc with pcnt := 1 }) = some (3, []) := by decide
/-- R178's example. -/
theorem test_acEnc :
    after (fun t => (t.out, t.low, t.range)) (exec (.acEnc 16384) { inMode .enc with opr := 0x00060005 }) =
      some ([0x00], 0x13FFFB00, 0x03FFFF00) := by decide +kernel
/-- V16: scale 0 is E_PROB and leaves RANGE. -/
theorem test_acEnc_scale_0 :
    after (fun t => (t.cause, t.fcmd, t.range, t.pc)) (exec (.acEnc 0) { inMode .enc with opr := 0x00010000, pc := 3 }) =
      some (4, 0x12000000, 0xFFFFFFFF, 3) := by decide
/-- V25: coded from the order-0 table, noted in `T[0]`. -/
theorem test_ppmEnc_novel :
    after (fun t => (t.low, t.range, t.ctxid, (readTable 0 t).sum, t.order0.sum)) (exec (.ppmEnc 0x41) (inMode .enc)) =
      some (0x40BF40BF, 0x00FF00FF, 0x41, 2, 259) := by decide +kernel
/-- V27: the third symbol is a hit in `T[0x41]`. -/
theorem test_ppmEnc_hit :
    after (fun t => (t.range, (readTable 0x41 t).count 0x41, (readTable 0x41 t).sum))
      (exec (.ppmEnc 0x41) { inMode .enc with
        low := 0x40FF3FCB, range := 0x0002F424, ctxid := 0x4141, tables := [(0x41, once 0x41)] }) =
      some (0x00017A12, 3, 4) := by decide +kernel
/-- R263's example: the second index fills the byte 0x1C. -/
theorem test_pixEnc_fills :
    after (fun t => (packWord t, t.ctxid)) (exec (.pixEnc 3) { inMode .enc with palsz := 5, pacc := 4, pcnt := 1 }) =
      some (0, 0x1C) := by decide +kernel
/-- R263's example: index 8 is no 3-bit index. -/
theorem test_pixEnc_index :
    after (fun t => (t.cause, t.fcmd)) (exec (.pixEnc 8) { inMode .enc with palsz := 5 }) = some (6, 0x14000008) := by
  decide
/-- R264's example: PACK 0x302 goes out as the symbol 0x02. -/
theorem test_pixFlush :
    after (fun t => (packWord t, t.ctxid)) (exec .pixFlush { inMode .enc with palsz := 2, pacc := 2, pcnt := 3 }) =
      some (0, 2) := by decide +kernel
/-- R128's example. -/
theorem test_decInit :
    after (fun t => (t.code, t.inptr, t.pastend)) (exec .decInit { inMode .idle with inp := [0x11, 0x22, 0x33], inlim := 2 }) =
      some (0x11220000, 4, true) := by decide +kernel
/-- R181's example: UNPACK 0x700 is discarded. -/
theorem test_decEnd :
    after (fun t => (t.mode, unpackWord t)) (exec .decEnd { inMode .dec with ucnt := 7 }) = some (.idle, 0) := by decide
/-- R183's example. -/
theorem test_acDfreq :
    after (fun t => (t.res, t.range, t.qpend)) (exec (.acDfreq 3) { inMode .dec with code := 0x40000000 }) =
      some ([0], 0x55555555, true) := by decide +kernel
/-- R183's example: a second query is E_SEQ. -/
theorem test_acDfreq_twice :
    after (·.cause) (exec (.acDfreq 3) { inMode .dec with range := 0x55555555, qpend := true, qscale := 3 }) = some 3 := by
  decide
/-- R184's example. -/
theorem test_acDupd :
    after (fun t => (t.low, t.range, t.code, t.inptr)) (exec .acDupd { inMode .dec with
      range := 0x3FFFF, code := 0x0013FFFB, qpend := true, qscale := 16384, opr := 0x00060005, inptr := 4
      inp := [0x00, 0x13, 0xFF, 0xFB, 0x00, 0x00] }) = some (0x13FFFB00, 0x03FFFF00, 0x13FFFB00, 5) := by
  decide +kernel
/-- V23: `hp = 17 > QSCALE = 16`; the fault keeps the divided RANGE. -/
theorem test_acDupd_prob :
    after (fun t => (t.cause, t.range)) (exec .acDupd { inMode .dec with
      range := 0x0FFFFFFF, qpend := true, qscale := 16, opr := 0x00110005 }) = some (4, 0x0FFFFFFF) := by decide
/-- R226's example: the overrun clamps to 255 and sets OVR. -/
theorem test_ppmDec_overrun :
    after (fun t => (t.res, t.low, t.range, statusWord t)) (exec .ppmDec { inMode .dec with code := 0xFFFFFFFF }) =
      some ([0xFF], 0xFE01FE01, 0x00FF00FF, 0x29) := by decide +kernel
/-- V28's first symbol; `T[0]` as V25's. -/
theorem test_ppmDec :
    after (fun t => (t.res, (readTable 0 t).sum)) (exec .ppmDec { inMode .dec with code := 0x40FF3FCB }) =
      some ([0x41], 2) := by decide +kernel
/-- Section 1.4's stream `01 FE 01 FE`: the first index of the symbol 0x02 is 0. -/
theorem test_pixDec_refill :
    after (fun t => (t.res, t.ctxid)) (exec .pixDec { inMode .dec with palsz := 2, code := 0x01FE01FE }) =
      some ([0], 2) := by decide +kernel
/-- R265's example: the third index leaves UNPACK = 0x500. -/
theorem test_pixDec_take :
    after (fun t => (t.res, unpackWord t)) (exec .pixDec { inMode .dec with palsz := 2, ucnt := 6 }) =
      some ([0], 0x500) := by decide +kernel
/-- R150's example. -/
theorem test_varEnc_300 : after (·.out) (exec .varEnc { inMode .idle with opr := 300 }) = some [0xAC, 0x02] := by
  decide +kernel
/-- Section 3.2. -/
theorem test_varEnc_max :
    after (·.out) (exec .varEnc { inMode .idle with opr := 0xFFFFFFFF }) = some [0xFF, 0xFF, 0xFF, 0xFF, 0x0F] := by
  decide +kernel
/-- Section 3.2: bit 4 of the fifth byte is dropped and VOVF set. -/
theorem test_varDec_dropped :
    after (fun t => (t.res, t.inptr, t.vovf)) (exec .varDec { inMode .idle with inp := [0xFF, 0xFF, 0xFF, 0xFF, 0x1F] }) =
      some ([0xFFFFFFFF], 5, true) := by decide +kernel
/-- Section 3.2: a truncated varint ends at the read past the end. -/
theorem test_varDec_truncated :
    after (fun t => (t.res, t.inptr, t.pastend, t.vovf)) (exec .varDec { inMode .idle with inp := [0x80] }) =
      some ([0], 2, true, false) := by decide +kernel

/-! ### Faults, the step and the host -/

/-- V36. -/
theorem test_step_illegal :
    after (fun t => (t.rstate, t.cause, t.fpc, t.fcmd, t.pc)) (step (running 0x09000000)) =
      some (.fault, 1, 0, 0x09000000, 0) := by decide +kernel
/-- V45: E_ILLEGAL before E_MODE. -/
theorem test_step_illegal_first :
    after (·.cause) (step { running 0x04000100 with mode := .enc }) = some 1 := by decide +kernel
/-- V50: E_MODE before E_PROB. -/
theorem test_step_mode_first :
    after (fun t => (t.cause, t.fcmd)) (step (running 0x12000000)) = some (2, 0x12000000) := by decide +kernel
/-- V3: the empty list. -/
theorem test_step_end :
    after (fun t => (t.rstate, t.pc)) (step (inMode .idle)) = some (.done, 0) := by decide +kernel
/-- R326 and R324. -/
theorem test_step_start :
    after (fun t => (t.rstate, t.pc, t.inlen))
      (step (withHost .start { State.reset with inp := [1, 2, 3], rstate := .done, pc := 7 })) =
      some (.run, 0, 3) := by decide +kernel
/-- R292 and R320: the end of a reset leaves FAULT and keeps IN. -/
theorem test_step_reset :
    after (fun t => (t.rstate, t.cause, t.inp))
      (step (withHost .releaseReset { State.reset with rstate := .fault, cause := 1, inp := [1], resetting := true })) =
      some (.ready, 0, [1]) := by decide +kernel
/-- R39: FREQMAX at offset 0x28. -/
theorem test_step_window :
    after (·.window) (step (withHost (.readWindow 0x28 4) State.reset)) = some [128] := by decide +kernel
/-- R70: a 16-bit access has no meaning. -/
theorem test_step_narrow :
    step (withHost (.readWindow 0x28 2) State.reset) = .refused .windowAccess := by rfl
/-- The first step after reset runs the placed word (R125's example). -/
theorem test_withFetchWord :
    after (·.res) (step (State.reset.withFetchWord 32 0x05000000)) = some [0x50455007] := by decide +kernel
/-- `95_test_vectors.md` 4.2, state-level form: the hit's scale 16386 exceeds RANGE. -/
theorem test_range_fault :
    after (fun t => (t.cause, t.range, (readTable 0 t).sum)) (exec (.ppmEnc 0x41) { inMode .enc with
      range := 0x4000, tables := [(0, { (once 0x41).setCount 256 16385 with sum := 16386 })] }) =
      some (5, 0x4000, 16386) := by decide +kernel

/-! ### Witnesses: for every statement with hypotheses, a state and operands that meet them all -/

theorem initial_coderOk (m : Mode) (h : m = .enc ∨ m = .dec) : CoderOk (inMode m) := by
  obtain rfl | rfl := h <;> (unfold CoderOk; decide)

theorem reset_order0Ok : Order0Ok State.reset := by unfold Order0Ok Table.total; decide +kernel

theorem initial_order0Ok (m : Mode) : Order0Ok (inMode m) := reset_order0Ok

theorem empty_exact : TableExact Table.empty := by unfold TableExact Table.total heldSymbols; decide +kernel

theorem empty_sound : TableSound Table.empty := by unfold TableSound Table.total; decide +kernel

theorem once_exact : TableExact (once 0x41) := by unfold TableExact Table.total heldSymbols; decide +kernel

theorem once_sound : TableSound (once 0x41) := by unfold TableSound Table.total; decide +kernel

theorem hit_tables_wf : ContextMem.wf [(0, once 0x41)] := by unfold ContextMem.wf; decide +kernel

theorem encHit_context : readTable (ctxIndex encHit) encHit = once 0x41 := rfl

theorem decHit_context : readTable (ctxIndex decHit) decHit = once 0x41 := rfl

theorem reset_inv : Inv State.reset ∧ SumsFarFromWrap State.reset := by
  refine ⟨⟨?_, reset_order0Ok, ⟨by decide, fun _ => empty_sound, nofun⟩, ?_, ?_, ?_⟩, nofun⟩
  · unfold CoderOk; decide
  · unfold PackerOk; decide
  · unfold FaultOk; decide
  · unfold LaunchOk; decide

/-- A running encoder whose context 0 holds a symbol meets the whole invariant. -/
def encRun : State := { encHit with cmd := [0x13000041] }

theorem encRun_tables (c : BitVec 8) : readTable c encRun = once 0x41 ∨ readTable c encRun = Table.empty := by
  by_cases h : c.toNat = 0 <;> simp [readTable, encRun, encHit, ContextMem.read, h]

theorem encRun_inv : Inv encRun ∧ SumsFarFromWrap encRun := by
  refine ⟨⟨?_, initial_order0Ok .enc, ⟨hit_tables_wf, fun c => ?_, fun _ c => ?_⟩, ?_, ?_, ?_⟩, nofun⟩
  · unfold CoderOk; decide
  · obtain h | h := encRun_tables c <;> rw [h]
    exacts [once_sound, empty_sound]
  · obtain h | h := encRun_tables c <;> rw [h]
    exacts [once_exact, empty_exact]
  · unfold PackerOk; decide
  · unfold FaultOk; decide
  · unfold LaunchOk; decide

/-- An idle state whose tables an encoder left meets it too (R41 item 3 in IDLE). -/
theorem idle_inv : Inv { encRun with mode := .idle } := by
  refine ⟨?_, initial_order0Ok .idle, ⟨hit_tables_wf, fun c => ?_, nofun⟩, ?_, ?_, ?_⟩
  · unfold CoderOk; decide
  · obtain h | h : readTable c { encRun with mode := .idle } = _ ∨ readTable c { encRun with mode := .idle } = _ :=
      encRun_tables c <;> rw [h]
    exacts [once_sound, empty_sound]
  · unfold PackerOk; decide
  · unfold FaultOk; decide
  · unfold LaunchOk; decide

theorem witness_DecodeOfEncodeIsTheCommand :
    (Instr.rdreg 20).wf = true ∧ (Instr.rdfreq false false 256 255).wf = true := by decide

theorem witness_EncodeOfDecodeIsTheWord : decode 0x13000041 = .ok (.ppmEnc 0x41) := by decide

theorem witness_IllegalWordsRaiseIllegal : Fetches (running 0x09000000) 0x09000000 ∧ ¬ LegalWord 0x09000000 := by
  unfold Fetches LegalWord; decide

theorem witness_StepRunsTheDecodedCommand :
    Fetches (running 0x13000041) 0x13000041 ∧ decode 0x13000041 = .ok (.ppmEnc 0x41) := by
  unfold Fetches; decide

theorem witness_StepWithoutACommand_end :
    hostTurn (inMode .idle) = none ∧ (inMode .idle).resetting = false ∧ (inMode .idle).rstate = .run ∧
    (inMode .idle).pc.toNat = (inMode .idle).cmd.length := by decide

theorem witness_StepWithoutACommand_still :
    (hostTurn State.reset = none ∧ State.reset.rstate ≠ .run) ∧
    (hostTurn { running 0 with resetting := true } = none ∧ ({ running 0 with resetting := true } : State).resetting = true) := by
  decide

theorem witness_StepWithoutACommand_reset :
    hostTurn (withHost .assertReset (running 0)) = some .assertReset := rfl

theorem witness_PlacedWordRunsNext : decode 0x05000014 = .ok (.rdreg 20) := by decide

theorem witness_NopLdlLdhFollowTheirRules :
    (Fetches (running 1) 1 ∧ (1 : Word).toNat / 2 ^ 24 = 0 ∧ (1 : Word).toNat % 2 ^ 24 ≠ 0) ∧
    (Fetches (running 0x02010000) 0x02010000 ∧ (0x02010000 : Word).toNat / 2 ^ 24 = 2 ∧
      (0x02010000 : Word).toNat / 2 ^ 16 % 2 ^ 8 ≠ 0) ∧
    (Fetches (running 0x03FF0000) 0x03FF0000 ∧ (0x03FF0000 : Word).toNat / 2 ^ 24 = 3 ∧
      (0x03FF0000 : Word).toNat / 2 ^ 16 % 2 ^ 8 ≠ 0) := by
  unfold Fetches; decide

theorem witness_HaltSeekLimitFollowTheirRules :
    (∃ s t : State, exec .halt s = .next t ∧ hostTurn t = none) ∧
    (Fetches (running 0x08800000) 0x08800000 ∧ (0x08800000 : Word).toNat / 2 ^ 24 ∈ [1, 7, 8] ∧
      (0x08800000 : Word).toNat % 2 ^ 24 ≠ 0) :=
  ⟨⟨inMode .idle, _, rfl, rfl⟩, by unfold Fetches; decide⟩

theorem witness_CfgWritesPalszInIdle : (inMode .idle).mode = .idle := rfl

theorem witness_PaletteQuantitiesFollowPalsz :
    max (paletteSize { State.reset with palsz := 0 }) 2 ≤ 2 ^ 8 ∧
    max (paletteSize { State.reset with palsz := 1 }) 2 ≤ 2 ^ 1 := by decide

theorem witness_RdregPushesTheRegister : (20 : BitVec 5).toNat ≤ 20 ∧ (0 : BitVec 5).toNat ≤ 20 := by decide

theorem witness_RdfreqPushesTheSelectedCount :
    ((256 : BitVec 9).toNat ≤ 256 ∧ (false = true → (255 : BitVec 8) = 0) ∧ (false = true → (256 : BitVec 9) = 0)) ∧
    ((256 : BitVec 9).toNat ≤ 256 ∧ (true = true → (0 : BitVec 8) = 0) ∧ (false = true → (256 : BitVec 9) = 0)) ∧
    ((0 : BitVec 9).toNat ≤ 256 ∧ (false = true → (255 : BitVec 8) = 0) ∧ (true = true → (0 : BitVec 9) = 0)) ∧
    ((0 : BitVec 9).toNat ≤ 256 ∧ (true = true → (0 : BitVec 8) = 0) ∧ (true = true → (0 : BitVec 9) = 0)) := by decide

/-- The last readable byte. -/
theorem witness_InReadFollowsItsRule_before :
    ∃ (s : State) (b : Byte), s.inptr.toNat < s.inp.length ∧ s.inptr.toNat < s.inlim.toNat ∧
      s.inp[s.inptr.toNat]? = some b :=
  ⟨{ State.reset with inp := [1, 2], inptr := 1, inlim := 2 }, 2, by decide⟩

/-- At IN_LEN; and at INLIM before IN_LEN. -/
theorem witness_InReadFollowsItsRule_past :
    (∃ s : State, s.inp.length = s.inptr.toNat ∧ (s.inp.length ≤ s.inptr.toNat ∨ s.inlim.toNat ≤ s.inptr.toNat)) ∧
    (∃ s : State, s.inptr.toNat < s.inp.length ∧ (s.inp.length ≤ s.inptr.toNat ∨ s.inlim.toNat ≤ s.inptr.toNat)) :=
  ⟨⟨{ State.reset with inp := [1, 2], inptr := 2 }, by decide⟩,
    ⟨{ State.reset with inp := [1, 2], inptr := 1, inlim := 1 }, by decide⟩⟩

theorem witness_VarintRoundTrip :
    ∃ (e e' d : State) (bs : List Byte), exec .varEnc e = .next e' ∧ e'.out = e.out ++ bs ∧
      (∀ k (h : k < bs.length), d.inp[d.inptr.toNat + k]? = some bs[k]) ∧
      d.inptr.toNat + bs.length ≤ d.inlim.toNat := by
  obtain ⟨t, h, ht⟩ := next_of_after test_varEnc_300
  exact ⟨_, t, { State.reset with inp := [7, 0xAC, 0x02], inptr := 1, inlim := 3 }, [0xAC, 0x02], h, ht,
    by decide, by decide⟩

theorem witness_EncFlushWritesLow : (inMode .enc).mode = .enc ∧ (inMode .enc).pcnt = 0 := by decide

/-- The largest scale, with the last interval. -/
theorem witness_AcEncCodesTheTriple :
    ∃ (s : State) (u16 : BitVec 16), s.mode = .enc ∧ CoderOk s ∧ oprLow s < oprHigh s ∧
      oprHigh s ≤ u16.toNat ∧ u16.toNat ≤ 16384 :=
  ⟨{ inMode .enc with opr := 0x40003FFF }, 16384, rfl, by unfold CoderOk; decide, by decide⟩

/-- The corner `LOW + RANGE = 2^32`. -/
theorem witness_RenormalisationEndsWithinThree :
    ∃ s : State, s.range ≠ 0 ∧ s.low.toNat + s.range.toNat ≤ 2 ^ 32 :=
  ⟨{ inMode .enc with low := 0xFFFFC000, range := 0x4000 }, by decide⟩

/-- R174's example. -/
theorem witness_UnderflowExpansionShrinksRange :
    triggered 0x12FFFFF0 0x10 ∧ (0x10 : Word).toNat < 2 ^ 14 := by unfold triggered; decide

theorem witness_AcDfreqPushesTheQuery :
    ∃ (s : State) (u16 : BitVec 16), s.mode = .dec ∧ s.qpend = false ∧ CoderOk s ∧ 1 ≤ u16.toNat ∧
      u16.toNat ≤ 16384 :=
  ⟨inMode .dec, 16384, rfl, rfl, initial_coderOk .dec (.inr rfl), by decide⟩

theorem witness_AcDupdCompletesTheQuery :
    ∃ s : State, s.qpend = true ∧ CoderOk s ∧ oprLow s < oprHigh s ∧ oprHigh s ≤ s.qscale.toNat :=
  ⟨{ inMode .dec with range := 0x3FFFF, qpend := true, qscale := 16384, opr := 0x40003FFF }, rfl,
    by unfold CoderOk; decide, by decide⟩

theorem witness_DecEndFollowsItsRule :
    (inMode .dec).mode = .dec ∧ (inMode .enc).mode ≠ .dec ∧ Fetches (running 0x19000001) 0x19000001 ∧
    (0x19000001 : Word).toNat / 2 ^ 24 = 0x19 ∧ (0x19000001 : Word).toNat % 2 ^ 24 ≠ 0 := by unfold Fetches; decide

/-- R186's round trip, its first symbol; CODE lies in the symbol's share. -/
theorem witness_DecoderTracksEncoder :
    ∃ (e d : State) (u16 : BitVec 16), e.mode = .enc ∧ d.mode = .dec ∧ d.qpend = false ∧ CoderOk e ∧ CoderOk d ∧
      e.low = d.low ∧ e.range = d.range ∧ e.opr = d.opr ∧ oprLow e < oprHigh e ∧ oprHigh e ≤ u16.toNat ∧
      u16.toNat ≤ 16384 ∧ d.low.toNat + oprLow d * (d.range.toNat / u16.toNat) ≤ d.code.toNat ∧
      d.code.toNat < d.low.toNat + oprHigh d * (d.range.toNat / u16.toNat) :=
  ⟨{ inMode .enc with opr := 0x00060005 }, { inMode .dec with opr := 0x00060005, code := 0x0013FFFB }, 16384,
    rfl, rfl, rfl, by unfold CoderOk; decide, by unfold CoderOk; decide, by decide⟩

/-- Both branches, the first one step below the threshold and the second at it, for the largest index. -/
theorem witness_UpdateAddsTwoOrHalves :
    ∃ (st : State) (t u : Table), (256 : Nat) ≤ 256 ∧ (t.count 256).toNat + 2 < 2 ^ 32 ∧ t.sum.toNat + 2 < 2 ^ 32 ∧
      ¬ (st.freqmax.toNat ≤ (t.count 256).toNat + 2 ∨ 2 ^ 14 ≤ t.sum.toNat + 2) ∧
      (u.count 256).toNat + 2 < 2 ^ 32 ∧ u.sum.toNat + 2 < 2 ^ 32 ∧
      (st.freqmax.toNat ≤ (u.count 256).toNat + 2 ∨ 2 ^ 14 ≤ u.sum.toNat + 2) :=
  ⟨State.reset, { Table.empty.setCount 256 125 with sum := 125 }, { Table.empty.setCount 256 126 with sum := 126 },
    by decide +kernel⟩

theorem witness_NovelAssignsOneAndEscapeAddsOne : (255 : Nat) ≤ 255 := Nat.le_refl _

theorem witness_PpmEncHitCodesFromTheContext :
    ∃ (s : State) (sym : Byte), s.mode = .enc ∧ s.pcnt = 0 ∧ CoderOk s ∧ ContextMem.wf s.tables ∧
      TableExact (readTable (ctxIndex s) s) ∧ (readTable (ctxIndex s) s).sum ≠ 0 ∧
      (readTable (ctxIndex s) s).count sym.toNat ≠ 0 ∧
      (readTable (ctxIndex s) s).sum.toNat ≤ s.range.toNat :=
  ⟨encHit, 0x41, rfl, rfl, by unfold CoderOk; decide, hit_tables_wf, once_exact, by decide +kernel⟩

/-- From an empty context, and from a context that holds another symbol. -/
theorem witness_PpmEncNovelCodesFromOrder0 :
    (∃ (s : State) (sym : Byte), s.mode = .enc ∧ s.pcnt = 0 ∧ CoderOk s ∧ Order0Ok s ∧ ContextMem.wf s.tables ∧
      TableExact (readTable (ctxIndex s) s) ∧ (readTable (ctxIndex s) s).count sym.toNat = 0 ∧
      (readTable (ctxIndex s) s).sum.toNat ≤ s.range.toNat ∧ (readTable (ctxIndex s) s).sum = 0) ∧
    (∃ (s : State) (sym : Byte), s.mode = .enc ∧ s.pcnt = 0 ∧ CoderOk s ∧ Order0Ok s ∧ ContextMem.wf s.tables ∧
      TableExact (readTable (ctxIndex s) s) ∧ (readTable (ctxIndex s) s).count sym.toNat = 0 ∧
      (readTable (ctxIndex s) s).sum.toNat ≤ s.range.toNat ∧ (readTable (ctxIndex s) s).sum ≠ 0) :=
  ⟨⟨inMode .enc, 0xFF, rfl, rfl, initial_coderOk .enc (.inl rfl), initial_order0Ok .enc, by decide, empty_exact,
      by decide +kernel⟩,
    ⟨encHit, 0xFF, rfl, rfl, by unfold CoderOk; decide, initial_order0Ok .enc, hit_tables_wf, once_exact,
      by decide +kernel⟩⟩

theorem witness_PpmDecPushesASymbol :
    ∃ s : State, s.mode = .dec ∧ s.qpend = false ∧ s.ucnt = 0 ∧ CoderOk s ∧ Order0Ok s ∧ ContextMem.wf s.tables ∧
      TableSound (readTable (ctxIndex s) s) ∧ (readTable (ctxIndex s) s).sum.toNat ≤ s.range.toNat ∧ s.ovr = true :=
  ⟨{ decHit with ovr := true }, rfl, rfl, rfl, by unfold CoderOk; decide, initial_order0Ok .dec, hit_tables_wf,
    once_sound, by decide +kernel⟩

theorem witness_PpmDecFromAnEmptyContext :
    ∃ s : State, s.mode = .dec ∧ s.qpend = false ∧ s.ucnt = 0 ∧ CoderOk s ∧ Order0Ok s ∧ ContextMem.wf s.tables ∧
      (readTable (ctxIndex s) s).sum = 0 :=
  ⟨inMode .dec, rfl, rfl, rfl, initial_coderOk .dec (.inr rfl), initial_order0Ok .dec, by decide, by decide⟩

theorem witness_PpmDecHitDecodesFromTheContext :
    ∃ s : State, s.mode = .dec ∧ s.qpend = false ∧ s.ucnt = 0 ∧ CoderOk s ∧ ContextMem.wf s.tables ∧
      TableSound (readTable (ctxIndex s) s) ∧ (readTable (ctxIndex s) s).sum ≠ 0 ∧
      (readTable (ctxIndex s) s).sum.toNat ≤ s.range.toNat ∧
      (s.code - s.low).toNat / (s.range.toNat / (readTable (ctxIndex s) s).sum.toNat) <
        (readTable (ctxIndex s) s).cumLo 256 :=
  ⟨decHit, rfl, rfl, rfl, by unfold CoderOk; decide, hit_tables_wf, once_sound, by decide +kernel⟩

/-- The escape in its share, and past every count (the clamp to the escape). -/
theorem witness_PpmDecEscapesToOrder0 (code : Word) (h : code = 0x90000000 ∨ code = 0xFFFFFFFF) :
    ∃ s : State, s.code = code ∧ s.mode = .dec ∧ s.qpend = false ∧ s.ucnt = 0 ∧ CoderOk s ∧ Order0Ok s ∧
      ContextMem.wf s.tables ∧ TableSound (readTable (ctxIndex s) s) ∧ (readTable (ctxIndex s) s).sum ≠ 0 ∧
      (readTable (ctxIndex s) s).sum.toNat ≤ s.range.toNat ∧
      (readTable (ctxIndex s) s).cumLo 256 ≤
        (s.code - s.low).toNat / (s.range.toNat / (readTable (ctxIndex s) s).sum.toNat) := by
  obtain rfl | rfl := h <;>
  exact ⟨{ decHit with code := _ }, rfl, rfl, rfl, rfl, by unfold CoderOk; decide, initial_order0Ok .dec,
    hit_tables_wf, once_sound, by decide +kernel, by decide +kernel, by decide +kernel⟩

/-- The hypotheses of PpmDecoderMirrorsEncoder on a pair of states. -/
def Mirrors (e d : State) (sym : Byte) : Prop :=
  SameModel e d ∧ e.mode = .enc ∧ e.pcnt = 0 ∧ d.mode = .dec ∧ d.qpend = false ∧ d.ucnt = 0 ∧
    CoderOk e ∧ CoderOk d ∧ Order0Ok e ∧ ContextMem.wf e.tables ∧ TableExact (readTable (ctxIndex e) e) ∧
    (readTable (ctxIndex e) e).sum.toNat ≤ e.range.toNat ∧ CodeSelects sym d

theorem witness_PpmDecoderMirrorsEncoder_empty : Mirrors (inMode .enc) { inMode .dec with code := 0x40FF3FCB } 0x41 :=
  ⟨⟨rfl, rfl, rfl, rfl, rfl, rfl, rfl⟩, rfl, rfl, rfl, rfl, rfl, initial_coderOk .enc (.inl rfl),
    by unfold CoderOk; decide, initial_order0Ok .enc, by decide, empty_exact, by decide +kernel,
    fun _ => by unfold InShare; decide +kernel, fun h => absurd rfl h, fun h => absurd rfl h⟩

theorem witness_PpmDecoderMirrorsEncoder_hit : Mirrors encHit decHit 0x41 :=
  ⟨⟨rfl, rfl, rfl, rfl, rfl, rfl, rfl⟩, rfl, rfl, rfl, rfl, rfl, by unfold CoderOk; decide, by unfold CoderOk; decide,
    initial_order0Ok .enc, hit_tables_wf, once_exact, by decide +kernel,
    fun h => absurd h (by decide +kernel), fun _ _ => by unfold InShare; decide +kernel,
    fun _ h => absurd h (by decide +kernel)⟩

/-- 0x42 under a context that holds 0x41: the escape's share is `[0x7FFFFFFF, 0xFFFFFFFE)`, and it settles no byte. -/
theorem witness_PpmDecoderMirrorsEncoder_escape : Mirrors encHit { decHit with code := 0xA0DF8000 } 0x42 :=
  ⟨⟨rfl, rfl, rfl, rfl, rfl, rfl, rfl⟩, rfl, rfl, rfl, rfl, rfl, by unfold CoderOk; decide, by unfold CoderOk; decide,
    initial_order0Ok .enc, hit_tables_wf, once_exact, by decide +kernel,
    fun h => absurd h (by decide +kernel), fun _ h => absurd (by decide +kernel) h,
    fun _ _ => ⟨by unfold InShare; decide +kernel, [], _, _,
      ⟨[], _, .exit (by unfold triggered; decide +kernel) (by decide +kernel), rfl⟩,
      by unfold InShare; decide +kernel⟩⟩

/-- `95_test_vectors.md` 4.2, state-level form: RANGE = 0x4000 and a context sum of 16386. -/
def oversized (m : Mode) : State :=
  { inMode m with range := 0x4000, tables := [(0, { (once 0x41).setCount 256 16385 with sum := 16386 })] }

theorem oversized_sum (m : Mode) :
    (oversized m).range.toNat < (readTable (ctxIndex (oversized m)) (oversized m)).sum.toNat := by
  cases m <;> decide +kernel

/-- PPM_ENC and PPM_DEC, PIX_ENC with BPI 8 (the first index fills the byte), PIX_FLUSH and PIX_DEC. -/
theorem witness_OversizedSumRaisesRange :
    (∃ s : State, s.range.toNat < (readTable (ctxIndex s) s).sum.toNat ∧ s.mode = .enc ∧ s.pcnt = 0) ∧
    (∃ s : State, s.range.toNat < (readTable (ctxIndex s) s).sum.toNat ∧ s.mode = .dec ∧ s.qpend = false ∧
      s.ucnt = 0) ∧
    (∃ (s : State) (idx : BitVec 8), s.range.toNat < (readTable (ctxIndex s) s).sum.toNat ∧ s.mode = .enc ∧
      s.pcnt.toNat + 1 = indicesPerByte s ∧ idx.toNat < 2 ^ bitsPerIndex s) ∧
    (∃ s : State, s.range.toNat < (readTable (ctxIndex s) s).sum.toNat ∧ s.mode = .enc ∧ s.pcnt ≠ 0) :=
  ⟨⟨oversized .enc, oversized_sum .enc, rfl, rfl⟩, ⟨oversized .dec, oversized_sum .dec, rfl, rfl, rfl⟩,
    ⟨oversized .enc, 255, oversized_sum .enc, rfl, by decide, by decide⟩,
    ⟨{ oversized .enc with palsz := 2, pacc := 2, pcnt := 3 }, oversized_sum .enc, rfl, by decide⟩⟩

/-- BPI = 3: the first of two indices, and the second, which fills the byte. -/
theorem witness_PixEncPacksAnIndex :
    (∃ (s : State) (idx : BitVec 8), s.mode = .enc ∧ idx.toNat < 2 ^ bitsPerIndex s ∧ PackerOk s ∧
      s.pcnt.toNat + 1 < indicesPerByte s) ∧
    (∃ (s : State) (idx : BitVec 8), s.mode = .enc ∧ idx.toNat < 2 ^ bitsPerIndex s ∧ PackerOk s ∧
      s.pcnt.toNat + 1 = indicesPerByte s ∧ CoderOk s ∧ Order0Ok s ∧ ContextMem.wf s.tables ∧
      TableExact (readTable (ctxIndex s) s) ∧ (readTable (ctxIndex s) s).sum.toNat ≤ s.range.toNat) :=
  ⟨⟨{ inMode .enc with palsz := 5 }, 7, rfl, by decide, by unfold PackerOk; decide, by decide⟩,
    ⟨{ encHit with palsz := 5, pacc := 7, pcnt := 1 }, 7, rfl, by decide, by unfold PackerOk; decide, by decide,
      by unfold CoderOk; decide, initial_order0Ok .enc, hit_tables_wf, once_exact, by decide +kernel⟩⟩

theorem witness_PixFlushEncodesThePartialByte :
    (∃ s : State, s.mode = .enc ∧ s.pcnt = 0) ∧
    (∃ s : State, s.mode = .enc ∧ s.pcnt ≠ 0 ∧ CoderOk s ∧ Order0Ok s ∧ ContextMem.wf s.tables ∧
      TableExact (readTable (ctxIndex s) s) ∧ (readTable (ctxIndex s) s).sum.toNat ≤ s.range.toNat) :=
  ⟨⟨inMode .enc, by decide⟩,
    ⟨{ encHit with palsz := 2, pacc := 2, pcnt := 3 }, rfl, by decide, by unfold CoderOk; decide,
      initial_order0Ok .enc, hit_tables_wf, once_exact, by decide +kernel⟩⟩

theorem witness_PixDecReturnsTheNextIndex :
    (∃ s : State, s.mode = .dec ∧ s.qpend = false ∧ s.ucnt ≠ 0) ∧
    (∃ s : State, s.mode = .dec ∧ s.qpend = false ∧ s.ucnt = 0 ∧ CoderOk s ∧ Order0Ok s ∧ ContextMem.wf s.tables ∧
      TableSound (readTable (ctxIndex s) s) ∧ (readTable (ctxIndex s) s).sum.toNat ≤ s.range.toNat) :=
  ⟨⟨{ inMode .dec with palsz := 2, ubuf := 1, ucnt := 1 }, by decide⟩,
    ⟨decHit, rfl, rfl, rfl, by unfold CoderOk; decide, initial_order0Ok .dec, hit_tables_wf, once_sound,
      by decide +kernel⟩⟩

/-- BPI = 3 with both slots used; and BPI = 1 with all eight, V31's indices. -/
theorem witness_UnpackerReturnsPackedIndices :
    (∃ (e d : State) (idxs : List (BitVec 8)) (last : BitVec 8), e.mode = .enc ∧ PackerOk e ∧ e.pcnt = 0 ∧
      idxs.length + 1 = indicesPerByte e ∧ indicesPerByte e = 2 ∧ (∀ i ∈ idxs, i.toNat < 2 ^ bitsPerIndex e) ∧
      last.toNat < 2 ^ bitsPerIndex e ∧ d.mode = .dec ∧ d.qpend = false ∧ d.palsz = e.palsz ∧
      (execAll (idxs.map .pixEnc) e).map (·.pacc) = some 7 ∧
      d.ubuf.toNat = 7 + last.toNat * 2 ^ (idxs.length * bitsPerIndex e) ∧ idxs.length < d.ucnt.toNat) ∧
    (∃ (e d : State) (idxs : List (BitVec 8)) (last : BitVec 8), e.mode = .enc ∧ PackerOk e ∧ e.pcnt = 0 ∧
      idxs.length + 1 = indicesPerByte e ∧ indicesPerByte e = 8 ∧ (∀ i ∈ idxs, i.toNat < 2 ^ bitsPerIndex e) ∧
      last.toNat < 2 ^ bitsPerIndex e ∧ d.mode = .dec ∧ d.qpend = false ∧ d.palsz = e.palsz ∧
      (execAll (idxs.map .pixEnc) e).map (·.pacc) = some 0x4D ∧
      d.ubuf.toNat = 0x4D + last.toNat * 2 ^ (idxs.length * bitsPerIndex e) ∧ idxs.length < d.ucnt.toNat) :=
  ⟨⟨{ inMode .enc with palsz := 5 }, { inMode .dec with palsz := 5, ubuf := 55, ucnt := 2 }, [7], 6, rfl,
      by unfold PackerOk; decide, by decide +kernel⟩,
    ⟨{ inMode .enc with palsz := 2 }, { inMode .dec with palsz := 2, ubuf := 0x4D, ucnt := 8 },
      [1, 0, 1, 1, 0, 0, 1], 0, rfl, by unfold PackerOk; decide, by decide +kernel⟩⟩

/-- One command for each cause: an ill-formed operand, V50, V55, V17, V34. -/
theorem witness_FirstFailingCheckGivesTheCause :
    FirstFailure (.rdreg 21) (inMode .idle) .illegal ∧ FirstFailure (.acEnc 0) (inMode .idle) .mode ∧
    FirstFailure (.ppmEnc 0) { inMode .enc with pcnt := 1 } .seq ∧
    FirstFailure (.acEnc 16385) { inMode .enc with opr := 0x00010000 } .prob ∧
    FirstFailure (.pixEnc 32) { inMode .enc with palsz := 20 } .index := by
  refine ⟨rfl, ⟨rfl, fun h => ?_⟩, ⟨rfl, ?_, ?_⟩, ⟨rfl, ?_, ?_, ?_⟩, rfl, ?_, ?_, trivial, ?_⟩
  · exact absurd (h .enc rfl) (by decide)
  · intro m h; cases h; rfl
  · unfold breaksSequence; decide
  · intro m h; cases h; rfl
  · exact id
  · unfold legalTriple; decide
  · intro m h; cases h; rfl
  · exact id
  · unfold legalIndex; decide

/-- 4.2's fault as a next state. -/
theorem witness_PassedChecksLeaveOnlyRange :
    ∃ (i : Instr) (s t : State), ChecksPass i s ∧ s.rstate = .run ∧ exec i s = .next t ∧ t.rstate = .fault := by
  have h : after (·.rstate) (exec (.acEnc 16384) { inMode .enc with range := 1, opr := 0x00010000 }) = some .fault := by
    decide +kernel
  obtain ⟨t, h, ht⟩ := next_of_after h
  refine ⟨_, _, t, ⟨rfl, ?_, id, ?_, by unfold legalIndex; trivial⟩, rfl, h, ht⟩
  · intro m hm; cases hm; rfl
  · unfold legalTriple; decide

theorem witness_FaultsArePreciseAndAtomic :
    ∃ (i : Instr) (s t : State), s.rstate = .run ∧ exec i s = .next t ∧ t.rstate = .fault := by
  obtain ⟨t, h, ht⟩ := next_of_after
    (f := (·.rstate)) (a := .fault) (o := exec .decEnd (inMode .idle)) (by decide +kernel)
  exact ⟨_, _, t, rfl, h, ht⟩

/-- A start in FAULT, and the end of a reset. -/
theorem witness_OnlyResetLeavesFault :
    (∃ s t : State, s.rstate = .fault ∧ hostTurn s = some .start ∧ step s = .next t) ∧
    (∃ s t : State, s.rstate = .fault ∧ hostTurn s = some .releaseReset ∧ s.resetting = true ∧ step s = .next t) :=
  ⟨⟨withHost .start { State.reset with rstate := .fault }, _, rfl, rfl, rfl⟩,
    ⟨withHost .releaseReset { State.reset with rstate := .fault, resetting := true }, _, rfl, rfl, rfl, rfl⟩⟩

theorem witness_StickyFlagsStaySet :
    ∃ (i : Instr) (s t : State), exec i s = .next t ∧ s.ovr = true ∧ s.vovf = true ∧ s.pastend = true :=
  ⟨.nop, { inMode .idle with ovr := true, vovf := true, pastend := true }, _, rfl, rfl, rfl, rfl⟩

theorem witness_OutputsOnlyGrow : ∃ (s t : State), exec (.rdreg 0) s = .next t := ⟨inMode .idle, _, rfl⟩

theorem witness_CommandsWriteOnlyTheirRegisters :
    ∃ (i : Instr) (s t : State), exec i s = .next t ∧ (∀ u, i ≠ .cfg u) ∧ (∀ u, i ≠ .ldl u) ∧ (∀ u, i ≠ .ldh u) ∧
      i ≠ .limit ∧ i ≠ .encInit ∧ i ≠ .decInit ∧ i ≠ .encFlush ∧ i ≠ .decEnd :=
  ⟨.nop, inMode .idle, _, rfl, nofun, nofun, nofun, nofun, nofun, nofun, nofun, nofun⟩

/-- NOP may write no part, so it meets the hypothesis of every clause about a part. -/
theorem witness_CommandsWriteOnlyTheirRegisters_parts (p : Part) :
    ∃ t : State, exec .nop (inMode .idle) = .next t ∧ t.rstate ≠ .fault ∧ p ∉ mayWrite .nop :=
  ⟨_, rfl, by decide, by cases p <;> decide⟩

theorem witness_HostStartBeginsARun (r : RState) :
    hostTurn (withHost .start { State.reset with rstate := r }) = some .start ∧
    (withHost .start { State.reset with rstate := r }).resetting = false ∧
    (withHost .start { State.reset with rstate := r }).rstate = r := ⟨rfl, rfl, rfl⟩

theorem witness_ResetRestoresEveryRegister :
    hostTurn (withHost .releaseReset { encHit with resetting := true }) = some .releaseReset ∧
    (withHost .releaseReset { encHit with resetting := true }).resetting = true := ⟨rfl, rfl⟩

/-- The last register, a reserved offset, and a write. -/
theorem witness_WindowReadsTheRegisters :
    (∃ (s : State) (reg : BitVec 5), reg.toNat = 20 ∧ s.rstate ≠ .run ∧ s.resetting = false ∧
      hostTurn s = some (.readWindow (4 * 20) 4)) ∧
    (∃ s : State, s.rstate ≠ .run ∧ s.resetting = false ∧ hostTurn s = some (.readWindow (4 * 21) 4)) ∧
    (∃ (s : State) (x : Word), s.rstate ≠ .run ∧ s.resetting = false ∧
      hostTurn s = some (.writeWindow (4 * 31) 4 x)) :=
  ⟨⟨withHost (.readWindow 80 4) State.reset, 20, by decide, by decide, rfl, rfl⟩,
    ⟨withHost (.readWindow 84 4) State.reset, by decide, rfl, rfl⟩,
    ⟨withHost (.writeWindow 124 4 9) State.reset, 9, by decide, rfl, rfl⟩⟩

/-- A read in a run, a read during reset, and a write in a run. -/
theorem witness_WindowReadsTheRegisters_busy :
    (∃ s : State, s.rstate = .run ∧ hostTurn s = some (.readWindow (4 * 31) 4)) ∧
    (∃ s : State, s.resetting = true ∧ hostTurn s = some (.readWindow (4 * 0) 4)) ∧
    (∃ (s : State) (x : Word), s.rstate = .run ∧ hostTurn s = some (.writeWindow (4 * 0) 4 x)) :=
  ⟨⟨withHost (.readWindow 124 4) (inMode .idle), rfl, rfl⟩,
    ⟨withHost (.readWindow 0 4) { State.reset with resetting := true }, rfl, rfl⟩,
    ⟨withHost (.writeWindow 0 4 9) (inMode .idle), 9, rfl, rfl⟩⟩

/-- Each clause about a load: during reset, during a run, short enough, and one word too long. -/
theorem witness_HostDutiesAreEnforced_load :
    (∃ s, hostTurn s = some (.loadCmd [0]) ∧ s.resetting = true) ∧
    (∃ s, hostTurn s = some (.loadCmd [0]) ∧ s.resetting = false ∧ s.rstate = .run) ∧
    (∃ s, hostTurn s = some (.loadCmd [0]) ∧ s.resetting = false ∧ s.rstate ≠ .run ∧ [(0 : Word)].length < 2 ^ 32) ∧
    (∃ s words, hostTurn s = some (.loadCmd words) ∧ s.resetting = false ∧ s.rstate ≠ .run ∧ 2 ^ 32 ≤ words.length) ∧
    (∃ s, hostTurn s = some (.loadInput [0]) ∧ s.resetting = true) ∧
    (∃ s, hostTurn s = some (.loadInput [0]) ∧ s.resetting = false ∧ s.rstate = .run) ∧
    (∃ s, hostTurn s = some (.loadInput [0]) ∧ s.resetting = false ∧ s.rstate ≠ .run ∧ [(0 : Byte)].length < 2 ^ 32) ∧
    (∃ s bytes, hostTurn s = some (.loadInput bytes) ∧ s.resetting = false ∧ s.rstate ≠ .run ∧
      2 ^ 32 ≤ bytes.length) := by
  refine ⟨⟨withHost (.loadCmd [0]) { State.reset with resetting := true }, rfl, rfl⟩,
    ⟨withHost (.loadCmd [0]) (inMode .idle), rfl, rfl, rfl⟩,
    ⟨withHost (.loadCmd [0]) State.reset, rfl, rfl, by decide, by decide⟩,
    ⟨withHost (.loadCmd (List.replicate (2 ^ 32) 0)) State.reset, _, rfl, rfl, nofun, ?_⟩,
    ⟨withHost (.loadInput [0]) { State.reset with resetting := true }, rfl, rfl⟩,
    ⟨withHost (.loadInput [0]) (inMode .idle), rfl, rfl, rfl⟩,
    ⟨withHost (.loadInput [0]) State.reset, rfl, rfl, by decide, by decide⟩,
    ⟨withHost (.loadInput (List.replicate (2 ^ 32) 0)) State.reset, _, rfl, rfl, nofun, ?_⟩⟩ <;>
  exact Nat.le_of_eq List.length_replicate.symm

/-- A start during reset; a wrong width, a wrong offset, and the first offset outside the window. -/
theorem witness_HostDutiesAreEnforced_access :
    (∃ s, hostTurn s = some .start ∧ s.resetting = true) ∧
    (∃ s, hostTurn s = some (.readWindow 0 2) ∧ (2 ≠ 4 ∨ 0 % 4 ≠ 0 ∨ 128 ≤ 0)) ∧
    (∃ s, hostTurn s = some (.readWindow 2 4) ∧ (4 ≠ 4 ∨ 2 % 4 ≠ 0 ∨ 128 ≤ 2)) ∧
    (∃ s x, hostTurn s = some (.writeWindow 128 4 x) ∧ (4 ≠ 4 ∨ 128 % 4 ≠ 0 ∨ 128 ≤ 128)) :=
  ⟨⟨withHost .start { State.reset with resetting := true }, rfl, rfl⟩,
    ⟨withHost (.readWindow 0 2) State.reset, rfl, by decide⟩,
    ⟨withHost (.readWindow 2 4) State.reset, rfl, by decide⟩,
    ⟨withHost (.writeWindow 128 4 0) State.reset, 0, rfl, by decide⟩⟩

/-- The state of `encRun` meets the invariant and the step codes a symbol: the premises of every invariant
statement together. -/
theorem encRun_steps : ∃ t : State, step encRun = .next t ∧ t.ctxid = 0x41 :=
  next_of_after (f := (·.ctxid)) (by decide +kernel)

theorem witness_EveryStepKeepsOrder0 : ∃ s t : State, Order0Ok s ∧ step s = .next t := by
  obtain ⟨t, h, -⟩ := encRun_steps
  exact ⟨encRun, t, encRun_inv.1.2.1, h⟩

theorem witness_EveryStepKeepsThePacker : ∃ s t : State, PackerOk s ∧ step s = .next t := by
  obtain ⟨t, h, -⟩ := encRun_steps
  exact ⟨encRun, t, encRun_inv.1.2.2.2.1, h⟩

theorem witness_EveryStepKeepsFaultAndLaunchRegisters :
    ∃ s t : State, FaultOk s ∧ LaunchOk s ∧ step s = .next t := by
  obtain ⟨t, h, -⟩ := encRun_steps
  exact ⟨encRun, t, encRun_inv.1.2.2.2.2.1, encRun_inv.1.2.2.2.2.2, h⟩

theorem witness_EveryStepKeepsEncoderTablesExact :
    ∃ s t : State, ContextMem.wf s.tables ∧ s.mode = .enc ∧ (∀ c, TableExact (readTable c s)) ∧ step s = .next t := by
  obtain ⟨t, h, -⟩ := encRun_steps
  exact ⟨encRun, t, encRun_inv.1.2.2.1.1, rfl, encRun_inv.1.2.2.1.2.2 rfl, h⟩

theorem witness_EveryStepKeepsTheInvariant : ∃ s t : State, Inv s ∧ SumsFarFromWrap s ∧ step s = .next t := by
  obtain ⟨t, h, -⟩ := encRun_steps
  exact ⟨encRun, t, encRun_inv.1, encRun_inv.2, h⟩

theorem witness_TheBlockNeverSticks : ∃ s : State, Inv s ∧ hostTurn s = none := ⟨encRun, encRun_inv.1, rfl⟩

end Sys2Proof.Tests
end

section
/-! The fresh frequency tables, count by count (R34). -/

namespace Sys2Proof.Machine

@[simp] theorem Table.empty_sum : Table.empty.sum = 0 := rfl

@[simp] theorem Table.empty_count (i : Nat) : Table.empty.count i = 0 := by
  unfold Table.count Table.empty
  rw [Vector.getElem?_replicate]
  split <;> rfl

@[simp] theorem Table.ones_sum : Table.ones.sum = 257 := rfl

theorem Table.ones_count {i : Nat} (h : i ≤ 256) : Table.ones.count i = 1 := by
  unfold Table.count Table.ones
  rw [Vector.getElem?_replicate, if_pos (Nat.lt_succ_of_le h), Option.getD_some]

/-- With no table listed, every order-2 table reads as the empty one (R34). -/
theorem readTable_of_tables_nil {s : State} (h : s.tables = []) (c : BitVec 8) : readTable c s = Table.empty := by
  rw [readTable, h, ContextMem.read]

end Sys2Proof.Machine
end

section
/-! The host's turn in a step, and the end of a reset (R40, R320). -/

namespace Sys2Proof.Machine

/-- A step in which the host moves is that move, with the schedule slot used up. -/
theorem step_of_hostTurn {s : State} {m : HostMove} (h : hostTurn s = some m) :
    step s = hostMove m (dropTurn s) := by
  rw [step, takeStep, h]

/-- The completion of an asserted reset is `resetBlock`. -/
theorem step_releaseReset {s : State} (h : hostTurn s = some .releaseReset) (hr : s.resetting = true) :
    step s = .next (resetBlock (dropTurn s)) := by
  rw [step_of_hostTurn h, hostMove, dropTurn_resetting, if_pos hr]

@[simp] theorem resetBlock_tables (s : State) : (resetBlock s).tables = [] := rfl

@[simp] theorem resetBlock_order0 (s : State) : (resetBlock s).order0 = Table.ones := rfl

/-- After a reset every order-2 table is empty (R34, R40). -/
@[simp] theorem readTable_resetBlock (c : BitVec 8) (s : State) : readTable c (resetBlock s) = Table.empty :=
  readTable_of_tables_nil (resetBlock_tables s) c

/-- Settles O50: the step is `resetBlock`, whose plain registers are literals or copies of the launch parameters;
what needs an argument is the tables, count by count. -/
theorem resetRestoresEveryRegister : Obligations.ResetRestoresEveryRegister := by
  intro s h hr
  have order2 (c : BitVec 8) (i : Nat) : (readTable c (resetBlock (dropTurn s))).sum = 0 ∧
      (readTable c (resetBlock (dropTurn s))).count i = 0 := by simp
  have order0 (i : Nat) (hi : i ≤ 256) : (resetBlock (dropTurn s)).order0.count i = 1 := by
    rw [resetBlock_order0, Table.ones_count hi]
  refine ⟨resetBlock (dropTurn s), step_releaseReset h hr, ?_⟩
  exact ⟨rfl, rfl, rfl, rfl, rfl, rfl, rfl, rfl, rfl, rfl, rfl, rfl, rfl, rfl, rfl, rfl, rfl, rfl,
    order2, order0, rfl, rfl, rfl, rfl, rfl, rfl, rfl, rfl, rfl, rfl, rfl, rfl, rfl⟩

end Sys2Proof.Machine
end

section
/-! One `InRead`, before the end and at or beyond it, with INPTR read as a number (R62). -/

namespace Sys2Proof.Machine

/-- INPTR advances by one and stays at `2^32 − 1` once there. -/
theorem inptrAfter_one_toNat (p : Word) : (inptrAfter p 1).toNat = min (p.toNat + 1) (2 ^ 32 - 1) := by
  unfold inptrAfter inptrAfter
  split <;> bv_omega

theorem inRead_before {s : State} {b : Byte} (h : s.inptr.toNat < inputEnd s)
    (hb : s.inp[s.inptr.toNat]? = some b) :
    inRead s = (b, { s with inptr := inptrAfter s.inptr 1 }) := by
  have byte : nextByte s = b := Option.some.inj ((nextByte_before s h).symm.trans hb)
  have past : (s.pastend || decide (inputEnd s ≤ s.inptr.toNat)) = s.pastend := by simp [h]
  rw [inRead, afterRead, byte, past, inptrAfter, inptrAfter]

theorem inRead_past {s : State} (h : inputEnd s ≤ s.inptr.toNat) :
    inRead s = (0, { s with inptr := inptrAfter s.inptr 1, pastend := true }) := by
  have past : (s.pastend || decide (inputEnd s ≤ s.inptr.toNat)) = true := by simp [h]
  rw [inRead, afterRead, nextByte_past s h, past, inptrAfter, inptrAfter]

/-- Settles O15: the two clauses are the two sides of `inputEnd`. -/
theorem inReadFollowsItsRule : Obligations.InReadFollowsItsRule := by
  intro s
  constructor
  · intro b hlen hlim hb
    exact ⟨_, inRead_before (lt_min hlen hlim) hb, inptrAfter_one_toNat _⟩
  · intro h
    exact ⟨_, inRead_past (min_le_iff.mpr h), inptrAfter_one_toNat _⟩

end Sys2Proof.Machine
end

section
/-! Which words decode (R94 to R96), format by format, and what the step does with the others (R95, R96). -/

namespace Sys2Proof

/-! ### The fields of a word as numbers -/

theorem opField_toNat (w : Word) : (opField w).toNat = w.toNat / 2 ^ 24 := by
  rw [opField, BitVec.extractLsb'_toNat, Nat.shiftRight_eq_div_pow]
  omega

theorem immField_toNat (w : Word) : (immField w).toNat = w.toNat % 2 ^ 24 := BitVec.extractLsb'_toNat ..

/-- A field of the immediate as a number. -/
theorem immSlice_toNat (imm : BitVec 24) (start len : Nat) :
    (imm.extractLsb' start len).toNat = imm.toNat / 2 ^ start % 2 ^ len := by
  rw [BitVec.extractLsb'_toNat, Nat.shiftRight_eq_div_pow]

/-- A flag of the immediate as a number. -/
theorem immFlag_iff (imm : BitVec 24) (k : Nat) : imm.getLsbD k = true ↔ imm.toNat / 2 ^ k % 2 = 1 := by
  rw [BitVec.getLsbD, Nat.testBit_eq_decide_div_mod_eq, decide_eq_true_iff]

theorem regLegal_iff (reg : BitVec 5) : regLegal reg = true ↔ reg.toNat ≤ 20 := decide_eq_true_iff

theorem freqSelLegal_iff (S O : Bool) (i : BitVec 9) (c : BitVec 8) :
    freqSelLegal S O i c = true ↔
      i.toNat ≤ 256 ∧ (O = true → c.toNat = 0) ∧ (S = true → i.toNat = 0) := by
  have c_zero : c = 0 ↔ c.toNat = 0 := BitVec.toNat_inj.symm
  have i_zero : i = 0 ↔ i.toNat = 0 := BitVec.toNat_inj.symm
  cases S <;> cases O <;> simp [freqSelLegal, ← c_zero, ← i_zero, and_assoc]

/-! ### The words of a format that decode -/

/-- Past a check of a format a word decodes exactly when the check holds and what follows decodes. -/
theorem check_decodes_iff {p : Prop} [Decidable p] (r : Except DecodeError Instr) (e : DecodeError) :
    (∃ i, (if p then r else .error e) = .ok i) ↔ p ∧ ∃ i, r = .ok i := by
  split <;> simp [*]

@[simp] theorem formatZ_decodes_iff (w : Word) (i : Instr) :
    (∃ j, formatZ w i = .ok j) ↔ (immField w).toNat = 0 := by
  simp only [formatZ, check_decodes_iff, Except.ok.injEq, exists_eq', and_true]

@[simp] theorem formatB_decodes_iff (w : Word) (mk : BitVec 8 → Instr) :
    (∃ j, formatB w mk = .ok j) ↔ (immField w).toNat < 2 ^ 8 := by
  simp only [formatB, check_decodes_iff, Except.ok.injEq, exists_eq', and_true, immSlice_toNat]
  omega

@[simp] theorem formatH_decodes_iff (w : Word) (mk : BitVec 16 → Instr) :
    (∃ j, formatH w mk = .ok j) ↔ (immField w).toNat < 2 ^ 16 := by
  simp only [formatH, check_decodes_iff, Except.ok.injEq, exists_eq', and_true, immSlice_toNat]
  omega

/-- In format R the reserved bits at 0 and the bound on the register (R93) bound the whole immediate. -/
@[simp] theorem formatR_decodes_iff (w : Word) (mk : BitVec 5 → Instr) :
    (∃ j, formatR w mk = .ok j) ↔ (immField w).toNat ≤ 20 := by
  simp only [formatR, check_decodes_iff, Except.ok.injEq, exists_eq', and_true, regLegal_iff, immSlice_toNat]
  omega

/-- In format F, with the reserved bits at 0, `S` is all that stands above bit 17 (R91). -/
@[simp] theorem formatF_decodes_iff (w : Word) (mk : Bool → Bool → BitVec 9 → BitVec 8 → Instr) :
    (∃ j, formatF w mk = .ok j) ↔
      (immField w).toNat < 2 ^ 19 ∧ (immField w).toNat / 2 ^ 8 % 2 ^ 9 ≤ 256 ∧
      ((immField w).toNat / 2 ^ 17 % 2 = 1 → (immField w).toNat % 2 ^ 8 = 0) ∧
      ((immField w).toNat / 2 ^ 18 = 1 → (immField w).toNat / 2 ^ 8 % 2 ^ 9 = 0) := by
  simp only [formatF, check_decodes_iff, Except.ok.injEq, exists_eq', and_true, freqSelLegal_iff,
    immFlag_iff, immSlice_toNat]
  omega

end Sys2Proof

namespace Sys2Proof.Machine

/-- The words that decode are the legal ones: a row of R94 leaves what its format leaves, and an opcode of R95
nothing. -/
theorem decodes_iff_legalWord (w : Word) : (∃ i, decode w = .ok i) ↔ LegalWord w := by
  unfold LegalWord decode
  rw [← opField_toNat, ← immField_toNat]
  split
  case h_24 => simp_all -- an opcode of R95
  all_goals -- a row of R94
    rename_i row
    simp [row]

/-- The step that fetches a word is the running block's own. -/
theorem step_of_fetches {s : State} {w : Word} (h : Fetches s w) : step s = runStep (dropTurn s) := by
  obtain ⟨run, noReset, noHost, -⟩ := h
  simp [step, takeStep, blockStep, run, noReset, noHost]

/-- A word at PC that does not decode is answered with the fault entry of E_ILLEGAL (R95, R96). -/
theorem runStep_of_decode_error {s : State} {w : Word} {e : DecodeError} (fetch : s.cmd[s.pc.toNat]? = some w)
    (h : decode w = .error e) : runStep s = .next (faultEntry .illegal w s) := by
  have inList : s.pc.toNat ≠ s.cmd.length := (List.getElem?_eq_some_iff.mp fetch).1.ne
  simp [runStep, fetch, inList, h]

theorem entersIllegal_of_decode_error {s : State} {w : Word} {e : DecodeError} (h : Fetches s w)
    (he : decode w = .error e) : EntersIllegal s w := by
  have own : step s = runStep (dropTurn s) := step_of_fetches h
  obtain ⟨-, -, -, fetch⟩ := h
  exact own.trans (runStep_of_decode_error (s := dropTurn s) fetch he)

/-- Settles O3: the first part is `decodes_iff_legalWord`, and by it an illegal word decodes to an error, which the
step answers with fault entry. -/
theorem illegalWordsRaiseIllegal : Obligations.IllegalWordsRaiseIllegal := by
  refine ⟨decodes_iff_legalWord, fun s w fetches illegal => ?_⟩
  cases decoded : decode w with
  | error e => exact entersIllegal_of_decode_error fetches decoded
  | ok i => exact absurd ((decodes_iff_legalWord w).mp ⟨i, decoded⟩) illegal

end Sys2Proof.Machine
end

section
/-! The control commands (`40_control.md` R120 to R123, R127, R128): one equation each, their words, and what
follows a command that leaves RUN. -/

namespace Sys2Proof

/-- The word of a command as a number (R90). -/
theorem encode_toNat (i : Instr) : (encode i).toNat = (opcode i).toNat * 2 ^ 24 + (immediate i).toNat := by
  rw [encode, BitVec.toNat_append, ← Nat.shiftLeft_add_eq_or_of_lt (immediate i).isLt, Nat.shiftLeft_eq]

/-- In format H the operand is the whole immediate as a number (R91). -/
theorem formatH_immediate_toNat (u16 : BitVec 16) : (0#8 ++ u16 : BitVec 24).toNat = u16.toNat := by
  rw [BitVec.toNat_append, BitVec.toNat_zero, Nat.zero_shiftLeft, Nat.zero_or]

end Sys2Proof

namespace Sys2Proof.Machine

/-! ### What each command does -/

theorem exec_nop (s : State) : exec .nop s = .next { s with pc := s.pc + 1 } := rfl

theorem exec_halt (s : State) : exec .halt s = .next { s with rstate := .done, pc := s.pc + 1 } := rfl

theorem exec_ldl (u16 : BitVec 16) (s : State) :
    exec (.ldl u16) s = .next { s with opr := s.opr.extractLsb' 16 16 ++ u16, pc := s.pc + 1 } := rfl

theorem exec_ldh (u16 : BitVec 16) (s : State) :
    exec (.ldh u16) s = .next { s with opr := u16 ++ s.opr.extractLsb' 0 16, pc := s.pc + 1 } := rfl

theorem exec_seek (s : State) : exec .seek s = .next { s with inptr := s.opr, pc := s.pc + 1 } := rfl

theorem exec_limit (s : State) : exec .limit s = .next { s with inlim := s.opr, pc := s.pc + 1 } := rfl

/-- Outside RUN the block executes nothing (R299). -/
theorem blockStep_of_not_run {s : State} (idle : s.rstate ≠ .run) : blockStep s = .next s := by
  unfold blockStep
  split
  · rfl
  · split
    · contradiction
    all_goals rfl

/-- Outside RUN a step without a host move only uses up its slot of the schedule. -/
theorem step_of_not_run {s : State} (noHost : hostTurn s = none) (idle : s.rstate ≠ .run) :
    step s = .next (dropTurn s) := by
  rw [step, takeStep, noHost]
  exact blockStep_of_not_run (s := dropTurn s) idle

/-! ### Their illegal immediates -/

/-- A legal word of NOP, HALT, SEEK or LIMIT has immediate 0: they are of format Z (R91, R94). -/
theorem LegalWord.imm_eq_zero {w : Word} (legal : LegalWord w) (op : w.toNat / 2 ^ 24 ∈ [0, 1, 7, 8]) :
    w.toNat % 2 ^ 24 = 0 := by
  simp only [LegalWord, List.mem_cons, List.not_mem_nil, or_false] at legal op
  omega

/-- A legal word of LDL or LDH has a 16-bit immediate: they are of format H (R91, R94). -/
theorem LegalWord.imm_lt {w : Word} (legal : LegalWord w) (op : w.toNat / 2 ^ 24 ∈ [2, 3]) :
    w.toNat % 2 ^ 24 < 2 ^ 16 := by
  simp only [LegalWord, List.mem_cons, List.not_mem_nil, or_false] at legal op
  omega

/-- A word that is not legal enters E_ILLEGAL when it is fetched (R95, R96). -/
theorem entersIllegal_of_not_legalWord {s : State} {w : Word} (fetches : Fetches s w) (illegal : ¬ LegalWord w) :
    EntersIllegal s w := illegalWordsRaiseIllegal.2 s w fetches illegal

/-- NOP, HALT, SEEK and LIMIT with a non-zero immediate are illegal (R120, R121, R127, R128). -/
theorem entersIllegal_of_imm_ne_zero {s : State} {w : Word} (fetches : Fetches s w)
    (op : w.toNat / 2 ^ 24 ∈ [0, 1, 7, 8]) (imm : w.toNat % 2 ^ 24 ≠ 0) : EntersIllegal s w :=
  entersIllegal_of_not_legalWord fetches fun legal => imm (legal.imm_eq_zero op)

/-- LDL and LDH with a bit above `u16` set are illegal (R122, R123). -/
theorem entersIllegal_of_high_imm_ne_zero {s : State} {w : Word} (fetches : Fetches s w)
    (op : w.toNat / 2 ^ 24 ∈ [2, 3]) (high : w.toNat / 2 ^ 16 % 2 ^ 8 ≠ 0) : EntersIllegal s w := by
  refine entersIllegal_of_not_legalWord fetches fun legal => high ?_
  have bound : w.toNat % 2 ^ 24 < 2 ^ 16 := legal.imm_lt op
  omega

/-! ### The obligations -/

/-- Settles O8: each half of OPR is a part of a concatenation, the words come from `encode_toNat`, and the illegal
immediates are those that format Z and format H exclude. -/
theorem nopLdlLdhFollowTheirRules : Obligations.NopLdlLdhFollowTheirRules := by
  refine ⟨exec_nop, fun s u16 => ⟨_, exec_ldl u16 s, extract_low .., extract_high ..⟩,
    fun s u16 => ⟨_, exec_ldh u16 s, extract_high .., extract_low ..⟩, rfl, fun u16 => ⟨?ldl, ?ldh⟩,
    fun s w fetches op imm => entersIllegal_of_imm_ne_zero fetches (by rw [op]; exact List.mem_cons_self) imm,
    fun s w fetches op high => entersIllegal_of_high_imm_ne_zero fetches (by simpa using op) high⟩
  case ldl => rw [encode_toNat, opcode, immediate, formatH_immediate_toNat]; rfl
  case ldh => rw [encode_toNat, opcode, immediate, formatH_immediate_toNat]; rfl

/-- Settles O9: HALT leaves DONE, where `step_of_not_run` says that nothing is fetched; the rest is one equation or
word per command, and format Z. -/
theorem haltSeekLimitFollowTheirRules : Obligations.HaltSeekLimitFollowTheirRules := by
  refine ⟨fun s => ⟨exec_halt s, exec_seek s, exec_limit s⟩, ?afterHalt, rfl, rfl, rfl,
    fun s w fetches op imm => entersIllegal_of_imm_ne_zero fetches (List.mem_cons_of_mem 0 op) imm⟩
  case afterHalt =>
    intro s t halted noHost
    have stopped : t.rstate = .done := by
      rw [exec_halt] at halted
      cases halted
      rfl
    exact step_of_not_run noHost (by simp [stopped])

end Sys2Proof.Machine
end

section
/-! Minimal varints (R150, R151) as an inductive relation between numbers and bytes. -/

namespace Sys2Proof.Machine

/-- `VarintOf v bytes`: `bytes` is the minimal varint of `v`, low group first: the last byte has no continuation
bit, every other byte has one, and what follows it stands for a number above 0. -/
inductive VarintOf : Nat → List Byte → Prop where
  | last {b : Byte} : b.toNat < 128 → VarintOf b.toNat [b]
  | more {b : Byte} {v : Nat} {bs : List Byte} : 128 ≤ b.toNat → 0 < v → VarintOf v bs →
      VarintOf (b.toNat % 128 + 128 * v) (b :: bs)

theorem VarintOf.value {v : Nat} {bytes : List Byte} (h : VarintOf v bytes) : varintValue bytes = v := by
  induction h with
  | last hb => rw [varintValue, varintValue, Nat.mod_eq_of_lt hb, Nat.mul_zero, Nat.add_zero]
  | more _ _ _ ih => rw [varintValue, ih]

/-- All bytes but the last carry the continuation bit. -/
theorem VarintOf.split {v : Nat} {bytes : List Byte} (h : VarintOf v bytes) :
    ∃ (bs : List Byte) (last : Byte), bytes = bs ++ [last] ∧ (∀ b ∈ bs, 128 ≤ b.toNat) ∧ last.toNat < 128 := by
  induction h with
  | @last b hb => exact ⟨[], b, rfl, by simp, hb⟩
  | @more b _ _ hb _ _ ih =>
    obtain ⟨bs, last, rfl, high, low⟩ := ih
    exact ⟨b :: bs, last, rfl, List.forall_mem_cons.mpr ⟨hb, high⟩, low⟩

/-- One more group holds 128 times as many numbers. -/
theorem two_pow_groups_succ (k : Nat) : 2 ^ (7 * (k + 1)) = 128 * 2 ^ (7 * k) := by
  rw [Nat.mul_succ, Nat.pow_add, Nat.mul_comm]

/-- The numbers whose minimal varint has `k` bytes after the first: below `2^(7(k+1))`, and from `2^(7k)` on unless
`k = 0`. -/
theorem VarintOf.length_bounds {v : Nat} {bytes : List Byte} (h : VarintOf v bytes) :
    ∃ k, bytes.length = k + 1 ∧ v < 2 ^ (7 * (k + 1)) ∧ (k = 0 ∨ 2 ^ (7 * k) ≤ v) := by
  induction h with
  | last hb => exact ⟨0, rfl, hb, .inl rfl⟩
  | more _ pos _ ih =>
    obtain ⟨k, len, upper, lower⟩ := ih
    refine ⟨k + 1, by rw [List.length_cons, len], ?_, .inr ?_⟩
    · rw [two_pow_groups_succ]
      omega
    · rw [two_pow_groups_succ]
      rcases lower with rfl | lower <;> omega

/-- The varint of a 32-bit number has the length that R151 gives. -/
theorem VarintOf.length_eq {v : Nat} {bytes : List Byte} (h : VarintOf v bytes) (word : v < 2 ^ 32) :
    bytes.length = if v < 2 ^ 7 then 1 else if v < 2 ^ 14 then 2 else if v < 2 ^ 21 then 3
      else if v < 2 ^ 28 then 4 else 5 := by
  obtain ⟨k, len, upper, lower⟩ := h.length_bounds
  have few : k < 5 := by
    rcases lower with rfl | lower
    · decide
    · have : 2 ^ (7 * k) < 2 ^ 32 := lt_of_le_of_lt lower word
      have : 7 * k < 32 := (Nat.pow_lt_pow_iff_right Nat.one_lt_two).mp this
      omega
  rw [len]
  interval_cases k <;> split_ifs <;> omega

end Sys2Proof.Machine
end

section
/-! VAR_ENC (R150, R151): the bytes it writes are the minimal varint of OPR. -/

namespace Sys2Proof.Machine

/-- The low group of a value as a byte. -/
theorem lowGroup_toNat (v : Word) : ((v.extractLsb' 0 7).setWidth 8).toNat = v.toNat % 128 := by
  rw [BitVec.toNat_setWidth, BitVec.extractLsb'_toNat, Nat.shiftRight_zero]
  omega

/-- The continuation bit on a byte that holds a group. -/
theorem continued_toNat {b : Byte} (group : b.toNat < 128) : (0x80 ||| b).toNat = 128 + b.toNat := by
  rw [BitVec.toNat_or]
  exact (Nat.two_pow_add_eq_or_of_lt (i := 7) group 1).symm

theorem nextGroups_toNat (v : Word) : (v >>> 7).toNat = v.toNat / 128 := by
  rw [BitVec.toNat_ushiftRight, Nat.shiftRight_eq_div_pow]

/-- The value is used up in a round exactly where it is one group. -/
theorem nextGroups_eq_zero_iff (v : Word) : v >>> 7 = 0 ↔ v.toNat < 128 := by
  rw [← BitVec.toNat_inj, nextGroups_toNat]
  exact Nat.div_eq_zero_iff_lt (by decide)

/-- The round of R150 that ends the loop. -/
theorem varintBytes_last (n : Nat) {v : Word} (one : v.toNat < 128) :
    ∃ b : Byte, b.toNat = v.toNat ∧ varintBytes (n + 1) v = [b] :=
  ⟨_, (lowGroup_toNat v).trans (Nat.mod_eq_of_lt one), if_pos ((nextGroups_eq_zero_iff v).mpr one)⟩

/-- The round of R150 that goes on. -/
theorem varintBytes_more (n : Nat) {v : Word} (several : 128 ≤ v.toNat) :
    ∃ b : Byte, 128 ≤ b.toNat ∧ b.toNat % 128 + 128 * (v >>> 7).toNat = v.toNat ∧
      varintBytes (n + 1) v = b :: varintBytes n (v >>> 7) := by
  have group : ((v.extractLsb' 0 7).setWidth 8).toNat < 128 := by
    rw [lowGroup_toNat]
    exact Nat.mod_lt _ (by decide)
  have byte := continued_toNat group
  rw [lowGroup_toNat] at byte
  have goesOn : ¬ v >>> 7 = 0 := fun h => Nat.not_lt.mpr several ((nextGroups_eq_zero_iff v).mp h)
  refine ⟨_, ?_, ?_, if_neg goesOn⟩
  · omega
  · rw [nextGroups_toNat]
    omega

/-- The loop of R150 writes the minimal varint of a value that its rounds use up. -/
theorem varintBytes_varintOf (n : Nat) (v : Word) (fits : v.toNat < 2 ^ (7 * (n + 1))) :
    VarintOf v.toNat (varintBytes (n + 1) v) := by
  induction n generalizing v with
  | zero =>
    obtain ⟨b, value, bytes⟩ := varintBytes_last 0 fits
    rw [bytes, ← value]
    exact .last (value ▸ fits)
  | succ n ih =>
    by_cases one : v.toNat < 128
    · obtain ⟨b, value, bytes⟩ := varintBytes_last (n + 1) one
      rw [bytes, ← value]
      exact .last (value ▸ one)
    · have several : 128 ≤ v.toNat := Nat.not_lt.mp one
      obtain ⟨b, continued, value, bytes⟩ := varintBytes_more (n + 1) several
      have left : 0 < (v >>> 7).toNat ∧ (v >>> 7).toNat < 2 ^ (7 * (n + 1)) := by
        rw [two_pow_groups_succ] at fits
        rw [nextGroups_toNat]
        exact ⟨Nat.div_pos several (by decide), Nat.div_lt_of_lt_mul fits⟩
      rw [bytes, ← value]
      exact .more continued left.1 (ih _ left.2)

/-- Five rounds use up every 32-bit value. -/
theorem varintBytes_five (v : Word) : VarintOf v.toNat (varintBytes 5 v) :=
  varintBytes_varintOf 4 v (v.isLt.trans (by decide))

/-- What VAR_ENC does (R150). -/
theorem exec_varEnc (s : State) :
    exec .varEnc s = .next { s with
      out := s.out ++ varintBytes 5 s.opr
      outcnt := s.outcnt + BitVec.ofNat 32 (varintBytes 5 s.opr).length
      pc := s.pc + 1 } := by
  rw [exec, execVarEnc, complete_ok, outWrites_state]

/-- Settles O16: the bytes are those of `varintBytes_five`, and each clause is a property of minimal varints. -/
theorem varEncAppendsTheMinimalVarint : Obligations.VarEncAppendsTheMinimalVarint := by
  intro s
  have varint : VarintOf s.opr.toNat (varintBytes 5 s.opr) := varintBytes_five s.opr
  obtain ⟨bs, last, bytes, high, low⟩ := varint.split
  rw [bytes] at varint
  have length : bs.length + 1 = (bs ++ [last]).length := by simp
  refine ⟨bs, last, ?_, high, low, varint.value, length.trans (varint.length_eq s.opr.isLt)⟩
  rw [exec_varEnc, bytes, length]

end Sys2Proof.Machine
end

section
/-! VAR_DEC on the bytes of a minimal varint (R152, R153). -/

namespace Sys2Proof.Machine

/-! ### Bytes that stand in IN -/

/-- `bytes` stand in IN from INPTR on, all before the end of the readable input (R62). -/
def StandsAtInptr (bytes : List Byte) (s : State) : Prop :=
  (∀ k (h : k < bytes.length), s.inp[s.inptr.toNat + k]? = some bytes[k]) ∧
    s.inptr.toNat + bytes.length ≤ s.inlim.toNat

/-- Below INLIM the INPTR does not saturate. -/
theorem inptr_succ_toNat {s : State} (below : s.inptr.toNat < s.inlim.toNat) :
    (s.inptr + 1).toNat = s.inptr.toNat + 1 := by
  bv_omega

/-- A read where a byte stands returns it and only moves INPTR. -/
theorem StandsAtInptr.inRead_eq {b : Byte} {bytes : List Byte} {s : State} (h : StandsAtInptr (b :: bytes) s) :
    inRead s = (b, { s with inptr := s.inptr + 1 }) := by
  obtain ⟨bytesAt, before⟩ := h
  have byte : s.inp[s.inptr.toNat]? = some b := bytesAt 0 (Nat.zero_lt_succ _)
  have below : s.inptr.toNat < s.inlim.toNat := by rw [List.length_cons] at before; omega
  have inList : s.inptr.toNat < s.inp.length := (List.getElem?_eq_some_iff.mp byte).1
  have unsaturated : s.inptr ≠ 0xFFFFFFFF := by bv_omega
  rw [inRead_before (lt_min inList below) byte, inptrAfter, inptrAfter, if_neg unsaturated]

/-- After that read the bytes that follow stand at INPTR. -/
theorem StandsAtInptr.tail {b : Byte} {bytes : List Byte} {s : State} (h : StandsAtInptr (b :: bytes) s) :
    StandsAtInptr bytes { s with inptr := s.inptr + 1 } := by
  obtain ⟨bytesAt, before⟩ := h
  rw [List.length_cons] at before
  have next : (s.inptr + 1).toNat = s.inptr.toNat + 1 := inptr_succ_toNat (by omega)
  refine ⟨fun k hk => ?_, ?_⟩
  · have byte := bytesAt (k + 1) (Nat.succ_lt_succ hk)
    rwa [List.getElem_cons_succ, Nat.add_comm k, ← Nat.add_assoc, ← next] at byte
  · change (s.inptr + 1).toNat + bytes.length ≤ s.inlim.toNat
    omega

/-! ### The loop of R152 -/

theorem continuation_iff (b : Byte) : b.getLsbD 7 = true ↔ 128 ≤ b.toNat := by
  rw [← BitVec.msb_eq_getLsbD_last, BitVec.msb_eq_decide, decide_eq_true_iff]

/-- A group above the ones already read is added to the value. -/
theorem or_group_toNat {low : Word} {k : Nat} (below : low.toNat < 2 ^ (7 * k)) {g : Nat}
    (fits : low.toNat + 2 ^ (7 * k) * g < 2 ^ 32) :
    (low ||| BitVec.ofNat 32 (g <<< (7 * k))).toNat = low.toNat + 2 ^ (7 * k) * g := by
  have part : g <<< (7 * k) = 2 ^ (7 * k) * g := by rw [Nat.shiftLeft_eq, Nat.mul_comm]
  rw [BitVec.toNat_or, BitVec.toNat_ofNat, part, Nat.mod_eq_of_lt (by omega), Nat.or_comm,
    ← Nat.two_pow_add_eq_or_of_lt below, Nat.add_comm]

/-- A round of R152 after `k` bytes, where no bit of the byte read lies beyond bit 31. -/
theorem varintRead_round {n k : Nat} (round : n + 1 + k = 5) {low : Word} (below : low.toNat < 2 ^ (7 * k))
    {b : Byte} (fits : low.toNat + 2 ^ (7 * k) * (b.toNat % 128) < 2 ^ 32) {s t : State}
    (read : inRead s = (b, t)) :
    ∃ w : Word, w.toNat = low.toNat + 2 ^ (7 * k) * (b.toNat % 128) ∧
      varintRead (n + 1) low s = if b.getLsbD 7 then varintRead n w t else (w, t) := by
  refine ⟨_, or_group_toNat below fits, ?_⟩
  have index : 5 - (n + 1) = k := by omega
  have group : (b.extractLsb' 0 7).toNat = b.toNat % 128 := by simp
  have kept : ¬ 2 ^ 32 ≤ (b.toNat % 128) <<< (7 * k) := by
    rw [Nat.shiftLeft_eq, Nat.mul_comm]
    omega
  simp only [varintRead, read, index, group, if_neg kept]

/-- The loop of R152 on the minimal varint of `v`, with `k` groups read and room for `v` above them. -/
theorem varintRead_varintOf {v : Nat} {bytes : List Byte} (varint : VarintOf v bytes) {n k : Nat}
    (round : n + k = 5) (allowed : bytes.length ≤ n) {low : Word} (below : low.toNat < 2 ^ (7 * k))
    (fits : low.toNat + 2 ^ (7 * k) * v < 2 ^ 32) {s : State} (stands : StandsAtInptr bytes s) :
    ∃ w : Word, w.toNat = low.toNat + 2 ^ (7 * k) * v ∧
      varintRead n low s = (w, { s with inptr := s.inptr + BitVec.ofNat 32 bytes.length }) := by
  induction varint generalizing n k low s with
  | @last b hb =>
    obtain ⟨n, rfl⟩ := Nat.exists_eq_add_of_le' allowed
    have group : b.toNat % 128 = b.toNat := Nat.mod_eq_of_lt hb
    have ends : ¬ b.getLsbD 7 = true := by rw [continuation_iff]; omega
    obtain ⟨w, value, step⟩ := varintRead_round round below (by rwa [group]) stands.inRead_eq
    rw [group] at value
    exact ⟨w, value, step.trans (if_neg ends)⟩
  | @more b v bs hb pos varint ih =>
    obtain ⟨n, rfl⟩ := Nat.exists_eq_add_of_le' (Nat.one_le_of_lt allowed)
    have regroup : low.toNat + 2 ^ (7 * k) * (b.toNat % 128 + 128 * v) =
        low.toNat + 2 ^ (7 * k) * (b.toNat % 128) + 2 ^ (7 * (k + 1)) * v := by
      rw [two_pow_groups_succ]
      ring
    rw [regroup] at fits ⊢
    obtain ⟨w, value, step⟩ := varintRead_round round below (Nat.lt_of_add_right_lt fits) stands.inRead_eq
    have below' : w.toNat < 2 ^ (7 * (k + 1)) := by
      have : 2 ^ (7 * k) * (b.toNat % 128) ≤ 2 ^ (7 * k) * 127 := Nat.mul_le_mul_left _ (by omega)
      rw [value, two_pow_groups_succ]
      omega
    rw [← value] at fits ⊢
    obtain ⟨u, total, rest⟩ :=
      ih (by omega : n + (k + 1) = 5) (Nat.le_of_succ_le_succ allowed) below' fits stands.tail
    have moved : s.inptr + 1 + BitVec.ofNat 32 bs.length = s.inptr + BitVec.ofNat 32 (b :: bs).length := by
      rw [List.length_cons, Nat.add_comm, BitVec.ofNat_add, BitVec.add_assoc]
      rfl
    refine ⟨u, total, ?_⟩
    rw [step, if_pos ((continuation_iff b).mpr hb), rest, ← moved]

/-- What VAR_DEC does where the minimal varint of `v` stands in IN (R153). -/
theorem exec_varDec_of_varintOf {v : Word} {bytes : List Byte} (varint : VarintOf v.toNat bytes) {s : State}
    (stands : StandsAtInptr bytes s) :
    exec .varDec s = .next { s with
      res := s.res ++ [v]
      inptr := s.inptr + BitVec.ofNat 32 bytes.length
      pc := s.pc + 1 } := by
  have allowed : bytes.length ≤ 5 := by
    rw [varint.length_eq v.isLt]
    split_ifs <;> decide
  obtain ⟨w, value, read⟩ :=
    varintRead_varintOf varint (k := 0) rfl allowed (low := 0) (by decide) (by simpa using v.isLt) stands
  obtain rfl : w = v := BitVec.eq_of_toNat_eq (value.trans (by simp))
  rw [exec, execVarDec, read]
  rfl

/-- Settles O18: the bytes the encoder gained are those of `varintBytes_five`. -/
theorem varintRoundTrip : Obligations.VarintRoundTrip := by
  intro e e' d bs encodes gained bytesAt before
  have written : e'.out = e.out ++ varintBytes 5 e.opr := by
    rw [exec_varEnc] at encodes
    cases encodes
    rfl
  obtain rfl : varintBytes 5 e.opr = bs := List.append_cancel_left (written.symm.trans gained)
  exact exec_varDec_of_varintOf (varintBytes_five e.opr) ⟨bytesAt, before⟩

end Sys2Proof.Machine
end

section
/-! DEC_END (R181): what it does in each mode, its word, and its illegal immediates. -/

namespace Sys2Proof.Machine

/-- DEC_END in DEC returns to IDLE without the pending query and the unpacker. -/
theorem exec_decEnd_of_dec {s : State} (dec : s.mode = .dec) :
    exec .decEnd s = .next { s with mode := .idle, qpend := false, ubuf := 0, ucnt := 0, pc := s.pc + 1 } := by
  have inDec : (s.mode == .dec) = true := beq_iff_eq.mpr dec
  rw [exec, execDecEnd, require_true inDec, complete_ok]

/-- DEC_END outside DEC is answered with the fault entry of E_MODE. -/
theorem exec_decEnd_of_not_dec {s : State} (other : s.mode ≠ .dec) :
    exec .decEnd s = .next (faultEntry .mode (encode .decEnd) s) := by
  have notInDec : (s.mode == .dec) = false := beq_eq_false_iff_ne.mpr other
  rw [exec, execDecEnd, require_false notInDec, complete_raise]

/-- A legal word whose opcode has format Z in R94 has immediate 0 (R91). -/
theorem LegalWord.imm_eq_zero_of_formatZ {w : Word} (legal : LegalWord w)
    (op : w.toNat / 2 ^ 24 ∈
      [0x00, 0x01, 0x07, 0x08, 0x10, 0x11, 0x15, 0x18, 0x19, 0x1B, 0x1C, 0x1D, 0x20, 0x21]) :
    w.toNat % 2 ^ 24 = 0 := by
  simp only [LegalWord, List.mem_cons, List.not_mem_nil, or_false] at legal op
  omega

/-- A word of format Z with a non-zero immediate enters E_ILLEGAL when it is fetched (R96). -/
theorem entersIllegal_of_formatZ {s : State} {w : Word} (fetches : Fetches s w)
    (op : w.toNat / 2 ^ 24 ∈
      [0x00, 0x01, 0x07, 0x08, 0x10, 0x11, 0x15, 0x18, 0x19, 0x1B, 0x1C, 0x1D, 0x20, 0x21])
    (imm : w.toNat % 2 ^ 24 ≠ 0) : EntersIllegal s w :=
  entersIllegal_of_not_legalWord fetches fun legal => imm (legal.imm_eq_zero_of_formatZ op)

/-- Settles O27: the check of the mode passes or fails, and DEC_END is of format Z. -/
theorem decEndFollowsItsRule : Obligations.DecEndFollowsItsRule :=
  ⟨fun _ dec => exec_decEnd_of_dec dec, fun _ other => exec_decEnd_of_not_dec other, rfl,
    fun _ _ fetches op imm => entersIllegal_of_formatZ fetches (by rw [op]; decide) imm⟩

end Sys2Proof.Machine
end

section
/-! Faults (R281, R282): a command that has a next state completes or enters a fault, and the work of a command never
writes FAULT itself, since no operation that the commands share writes RSTATE. -/

namespace Sys2Proof.Machine

/-! ### The shared operations keep RSTATE -/

@[simp] theorem outWrites_rstate (bs : List Byte) (s : State) : (outWrites bs s).rstate = s.rstate := by
  rw [outWrites_state]

@[simp] theorem inReads_rstate (n : Nat) (s : State) : (inReads n s).2.rstate = s.rstate := by
  obtain ⟨past, reads⟩ := inReads_state n s
  rw [reads]

@[simp] theorem shiftCodes_rstate (n : Nat) (s : State) : (shiftCodes n s).rstate = s.rstate := by
  rw [shiftCodes, setCode_rstate, inReads_rstate]

theorem encStep_rstate {lp hp sc : Nat} {s t : State} (h : encStep lp hp sc s = .ok t) : t.rstate = s.rstate := by
  obtain ⟨_, bs, _, left⟩ := encStep_ok h
  rw [left, setCoder_rstate, outWrites_rstate]

theorem encodeFrom_rstate {tbl : Table} {sym : Nat} {s t : State} (h : encodeFrom tbl sym s = .ok t) :
    t.rstate = s.rstate := encStep_rstate h

theorem decQuery_rstate {sc : Nat} {f : Word} {s t : State} (h : decQuery sc s = .ok (f, t)) :
    t.rstate = s.rstate := by
  obtain ⟨_, _, rfl⟩ := decQuery_ok h
  rfl

theorem decUpdate_rstate {lp hp : Nat} {s t : State} (h : decUpdate lp hp s = .ok t) : t.rstate = s.rstate := by
  obtain ⟨bs, _, left⟩ := decUpdate_ok h
  rw [left, setCoder_rstate, shiftCodes_rstate]

theorem search_rstate {tbl : Table} {n f : Nat} {hit : Nat × Nat × Nat} {s t : State} (counts : n ≤ 257)
    (h : search tbl n f s = .ok (hit, t)) : t.rstate = s.rstate := by
  obtain ⟨_, _, _, _, ⟨rfl, _⟩ | ⟨rfl, _⟩⟩ := search_ok counts h
  · rfl
  · rfl

theorem decodeFrom_rstate {tbl : Table} {n i : Nat} {s t : State} (counts : n ≤ 257)
    (h : decodeFrom tbl n s = .ok (i, t)) : t.rstate = s.rstate := by
  obtain ⟨f, s1, s2, lp, hp, query, found, update⟩ := decodeFrom_ok h
  rw [decUpdate_rstate update, search_rstate counts found, decQuery_rstate query]

theorem decOrder0_rstate {c : BitVec 8} {sym : Byte} {s t : State} (h : decOrder0 c s = .ok (sym, t)) :
    t.rstate = s.rstate := by
  obtain ⟨i, u, decoded, _, rfl⟩ := decOrder0_ok h
  simpa using decodeFrom_rstate (by decide) decoded

theorem ppmDecCore_rstate {sym : Byte} {s t : State} (h : ppmDecCore s = .ok (sym, t)) : t.rstate = s.rstate := by
  rcases ppmDecCore_ok h with ⟨_, order0⟩ | ⟨_, i, u, decoded, ⟨_, order0⟩ | ⟨_, _, rfl⟩⟩
  case inl => exact decOrder0_rstate order0
  case inr.inl => rw [decOrder0_rstate order0, escapeTable_rstate, decodeFrom_rstate le_rfl decoded]
  case inr.inr => simpa using decodeFrom_rstate le_rfl decoded

theorem encEscape_rstate {c : BitVec 8} {s t : State} (h : encEscape c s = .ok t) : t.rstate = s.rstate := by
  unfold encEscape at h
  split at h
  · cases h
    rfl
  · obtain ⟨s1, coded, h⟩ := bind_ok h
    cases h
    rw [escapeTable_rstate, encodeFrom_rstate coded]

theorem ppmEncCore_rstate {sym : Byte} {s t : State} (h : ppmEncCore sym s = .ok t) : t.rstate = s.rstate := by
  rcases ppmEncCore_ok h with ⟨_, s1, coded, rfl⟩ | ⟨_, s1, s2, escaped, coded, rfl⟩
  case inl => simpa using encodeFrom_rstate coded
  case inr => simpa using (encodeFrom_rstate coded).trans (encEscape_rstate escaped)

theorem refillUnpacker_rstate {s t : State} (h : refillUnpacker s = .ok t) : t.rstate = s.rstate := by
  unfold refillUnpacker at h
  split at h
  · obtain ⟨⟨sym, u⟩, decoded, h⟩ := bind_ok h
    cases h
    exact (ppmDecCore_rstate decoded :)
  · cases h
    rfl

@[simp] theorem flushByte_rstate (s : State) : (flushByte s).rstate = s.rstate := rfl

@[simp] theorem varintRead_rstate (n : Nat) (v : Word) (s : State) : (varintRead n v s).2.rstate = s.rstate := by
  induction n generalizing v s with
  | zero => rfl
  | succ n ih =>
    simp only [varintRead]
    split
    · rw [ih]
      split <;> rfl
    · split <;> rfl

/-! ### The work of a command -/

/-- Where the work `r` of a command started in `s` is done, RSTATE is as it was. -/
def KeepsRState (s : State) (r : Except Abort State) : Prop := ∀ u, r = .ok u → u.rstate = s.rstate

theorem KeepsRState.ok {s u : State} (h : u.rstate = s.rstate) : KeepsRState s (.ok u) := by
  rintro _ ⟨⟩
  exact h

theorem KeepsRState.require {s : State} {ok : Bool} {e : Cause} {k : Except Abort State} (h : KeepsRState s k) :
    KeepsRState s (require ok e k) := fun u done => h u (require_ok done).2

theorem KeepsRState.bind {α : Type} {s : State} {x : Except Abort α} {f : α → Except Abort State}
    (h : ∀ a, x = .ok a → KeepsRState s (f a)) : KeepsRState s (x >>= f) := by
  intro u done
  obtain ⟨a, first, rest⟩ := bind_ok done
  exact h a first u rest

theorem KeepsRState.encodePacked (b : Byte) (s : State) : KeepsRState s (encodePacked b s) :=
  fun _ done => ppmEncCore_rstate (s := { s with pacc := 0, pcnt := 0 }) done

/-- The end of a command whose work keeps RSTATE. -/
theorem rstate_or_fault_of_complete {w : Word} {s t : State} {r : Except Abort State}
    (h : complete w s r = .next t) (keeps : KeepsRState s r) :
    t.rstate = s.rstate ∨ ∃ e, t = faultEntry e w s := by
  rcases complete_next h with ⟨u, done, rfl⟩ | ⟨e, _, rfl⟩
  · exact .inl (keeps u done)
  · exact .inr ⟨e, rfl⟩

/-- HALT apart, a command that has a next state has kept RSTATE or has entered a fault from the state before it, under
its own word (R281, R282). -/
theorem rstate_or_fault_of_exec {i : Instr} {s t : State} (notHalt : i ≠ .halt) (h : exec i s = .next t) :
    t.rstate = s.rstate ∨ ∃ e, t = faultEntry e (encode i) s := by
  cases i
  case halt => exact absurd rfl notHalt
  case nop | ldl | ldh | seek | limit | encInit =>
    cases h
    exact .inl rfl
  case decInit =>
    simp only [exec, execDecInit, inRead, complete_ok] at h
    cases h
    exact .inl (by simp)
  case varEnc =>
    cases h
    exact .inl (outWrites_rstate ..)
  case varDec =>
    simp only [exec, execVarDec, complete_ok] at h
    cases h
    exact .inl (varintRead_rstate ..)
  all_goals apply rstate_or_fault_of_complete h
  case cfg | rdreg | rdfreq | decEnd => exact .require (.ok rfl)
  case encFlush => exact .require (.require (.ok (by simp)))
  case acEnc => exact .require (.require fun _ done => encStep_rstate done)
  case ppmEnc => exact .require (.require fun _ done => ppmEncCore_rstate done)
  case acDfreq =>
    exact .require (.require (.require (.bind fun _ queried => .ok (decQuery_rstate queried :))))
  case acDupd =>
    exact .require (.require (.require (.bind fun _ updated => .ok (decUpdate_rstate updated :))))
  case ppmDec => exact .require (.require (.bind fun _ decoded => .ok (ppmDecCore_rstate decoded :)))
  case pixDec => exact .require (.require (.bind fun _ filled => .ok (refillUnpacker_rstate filled :)))
  case pixEnc =>
    refine .require (.require ?_)
    split
    · exact .encodePacked _ s
    · exact .ok rfl
  case pixFlush =>
    refine .require ?_
    split
    · exact .ok rfl
    · exact .encodePacked _ s

/-! ### The obligation -/

/-- CAUSE after a fault is one of the six codes of R280. -/
theorem Cause.code_bounds (e : Cause) : 1 ≤ e.code.toNat ∧ e.code.toNat ≤ 6 := by
  cases e <;> decide

/-- Settles O44: a command started in RUN is in FAULT only by the fault entry, which is made from the state before
it. -/
theorem faultsArePreciseAndAtomic : Obligations.FaultsArePreciseAndAtomic := by
  intro i s t running h faulted
  have notHalt : i ≠ .halt := by
    rintro rfl
    rw [exec_halt] at h
    cases h
    cases faulted
  rcases rstate_or_fault_of_exec notHalt h with kept | ⟨e, rfl⟩
  · simp [faulted, running] at kept
  · exact ⟨rfl, e.code_bounds⟩

end Sys2Proof.Machine
end

section
/-! The encoder and the decoder are inverse to each other on well-formed commands (R90 to R97). -/

namespace Sys2Proof

/-! ### From a command to its word and back -/

/-- A slice that begins above the lower part of a concatenation is a slice of the upper part. -/
theorem extract_above {m n : Nat} (a : BitVec m) (b : BitVec n) (start len : Nat) :
    (a ++ b).extractLsb' (n + start) len = a.extractLsb' start len := by
  apply BitVec.eq_of_getLsbD_eq
  intro k hk
  have above : ¬ n + start + k < n := by omega
  have index : n + start + k - n = start + k := by omega
  simp [hk, BitVec.getLsbD_append, above, index]

/-- The fields of format F stand where the decoder reads them (R91). -/
theorem formatF_fields (S O : Bool) (i : BitVec 9) (c : BitVec 8) :
    let imm : BitVec 24 := 0#5 ++ BitVec.ofBool S ++ BitVec.ofBool O ++ i ++ c
    imm.getLsbD 18 = S ∧ imm.getLsbD 17 = O ∧ imm.extractLsb' 8 9 = i ∧ imm.extractLsb' 0 8 = c ∧
      imm.extractLsb' 19 5 = 0 := by
  refine ⟨?_, ?_, ?_, extract_low .., ?_⟩
  · simp only [BitVec.getLsbD_append]
    simp
  · simp only [BitVec.getLsbD_append]
    simp
  · rw [extract_above _ c 0 9, extract_low]
  · rw [extract_above _ c 11 5, extract_above _ i 2 5, extract_above _ (BitVec.ofBool O) 1 5, extract_high]
    rfl

/-- The decoder answers the word of a well-formed command with that command: its row is found by the opcode, the
reserved bits of its format are 0, and each operand is the slice that the format reads. -/
theorem decode_encode {i : Instr} (legal : i.wf = true) : decode (encode i) = .ok i := by
  cases i
  case rdreg reg =>
    have operand : (0#19 ++ reg : BitVec 24).extractLsb' 0 5 = reg := extract_low ..
    have reserved : (0#19 ++ reg : BitVec 24).extractLsb' 5 19 = 0 := extract_high ..
    have inRange : regLegal reg = true := legal
    simp [decode, opField_encode, opcode, formatR, immField_encode, immediate, operand, reserved, inRange]
  case rdfreq S O j c =>
    obtain ⟨flagS, flagO, index, table, reserved⟩ := formatF_fields S O j c
    have selects : freqSelLegal S O j c = true := legal
    have row : decode (encode (.rdfreq S O j c)) = formatF (encode (.rdfreq S O j c)) .rdfreq := by
      simp [decode, opField_encode, opcode]
    simp only [row, formatF, immField_encode, immediate, flagS, flagO, index, table, reserved, selects]
    rfl
  case ldl u16 | ldh u16 | acEnc u16 | acDfreq u16 =>
    have operand : (0#8 ++ u16 : BitVec 24).extractLsb' 0 16 = u16 := extract_low ..
    have reserved : (0#8 ++ u16 : BitVec 24).extractLsb' 16 8 = 0 := extract_high ..
    simp [decode, opField_encode, opcode, formatH, immField_encode, immediate, operand, reserved]
  case cfg u8 | ppmEnc u8 | pixEnc u8 =>
    have operand : (0#16 ++ u8 : BitVec 24).extractLsb' 0 8 = u8 := extract_low ..
    have reserved : (0#16 ++ u8 : BitVec 24).extractLsb' 8 16 = 0 := extract_high ..
    simp [decode, opField_encode, opcode, formatB, immField_encode, immediate, operand, reserved]
  all_goals simp [decode, opField_encode, opcode, formatZ, immField_encode, immediate]

/-- Settles O1: `decode_encode`. -/
theorem decodeOfEncodeIsTheCommand : Obligations.DecodeOfEncodeIsTheCommand := fun _ legal => decode_encode legal

/-! ### From a word to its command and back -/

/-- A word is its opcode field above its immediate field (R90). -/
theorem opField_append_immField (w : Word) : opField w ++ immField w = w := by
  apply BitVec.eq_of_toNat_eq
  rw [BitVec.toNat_append, ← Nat.shiftLeft_add_eq_or_of_lt (immField w).isLt, Nat.shiftLeft_eq, opField_toNat,
    immField_toNat]
  omega

/-- A value whose upper part is 0 is its lower part below zeros. -/
theorem zero_append_extract {m n : Nat} (imm : BitVec (m + n)) (upper : (imm.extractLsb' n m).toNat = 0) :
    0#m ++ imm.extractLsb' 0 n = imm := by
  have zero : imm.extractLsb' n m = 0#m := BitVec.eq_of_toNat_eq upper
  rw [← zero, BitVec.extractLsb'_append_extractLsb'_eq_extractLsb' (Nat.zero_add n).symm, BitVec.extractLsb'_eq_self]

/-- A word with the opcode and the immediate of a command is that command's word. -/
theorem encode_eq_of_fields {w : Word} {i : Instr} (op : opField w = opcode i) (imm : immField w = immediate i) :
    encode i = w := by
  rw [encode, ← op, ← imm, opField_append_immField]

theorem formatZ_ok {w : Word} {i j : Instr} (h : formatZ w i = .ok j) : j = i ∧ immField w = 0 := by
  unfold formatZ at h
  split at h
  · next zero =>
    cases h
    exact ⟨rfl, BitVec.eq_of_toNat_eq zero⟩
  · cases h

theorem formatB_ok {w : Word} {mk : BitVec 8 → Instr} {j : Instr} (h : formatB w mk = .ok j) :
    ∃ u8, j = mk u8 ∧ immField w = 0#16 ++ u8 := by
  unfold formatB at h
  split at h
  · next reserved =>
    cases h
    exact ⟨_, rfl, (zero_append_extract (m := 16) (n := 8) (immField w) reserved).symm⟩
  · cases h

theorem formatH_ok {w : Word} {mk : BitVec 16 → Instr} {j : Instr} (h : formatH w mk = .ok j) :
    ∃ u16, j = mk u16 ∧ immField w = 0#8 ++ u16 := by
  unfold formatH at h
  split at h
  · next reserved =>
    cases h
    exact ⟨_, rfl, (zero_append_extract (m := 8) (n := 16) (immField w) reserved).symm⟩
  · cases h

theorem formatR_ok {w : Word} {mk : BitVec 5 → Instr} {j : Instr} (h : formatR w mk = .ok j) :
    ∃ reg, j = mk reg ∧ regLegal reg = true ∧ immField w = 0#19 ++ reg := by
  unfold formatR at h
  split at h
  · next reserved =>
    split at h
    · next inRange =>
      cases h
      exact ⟨_, rfl, inRange, (zero_append_extract (m := 19) (n := 5) (immField w) reserved).symm⟩
    · cases h
  · cases h

/-- A flag of a value is a slice of one bit. -/
theorem ofBool_getLsbD {n : Nat} (x : BitVec n) (k : Nat) : BitVec.ofBool (x.getLsbD k) = x.extractLsb' k 1 := by
  apply BitVec.eq_of_getLsbD_eq
  intro i hi
  obtain rfl : i = 0 := by omega
  simp

/-- An immediate of format F whose reserved bits are 0 is made of its fields (R91). -/
theorem formatF_immediate {imm : BitVec 24} (reserved : (imm.extractLsb' 19 5).toNat = 0) :
    0#5 ++ BitVec.ofBool (imm.getLsbD 18) ++ BitVec.ofBool (imm.getLsbD 17) ++ imm.extractLsb' 8 9 ++
      imm.extractLsb' 0 8 = imm := by
  have zero : imm.extractLsb' 19 5 = 0#5 := BitVec.eq_of_toNat_eq reserved
  rw [← zero, ofBool_getLsbD, ofBool_getLsbD,
    BitVec.extractLsb'_append_extractLsb'_eq_extractLsb' (start₂ := 19) (start₁ := 18) rfl,
    BitVec.extractLsb'_append_extractLsb'_eq_extractLsb' (start₂ := 18) (start₁ := 17) rfl,
    BitVec.extractLsb'_append_extractLsb'_eq_extractLsb' (start₂ := 17) (start₁ := 8) rfl,
    BitVec.extractLsb'_append_extractLsb'_eq_extractLsb' (start₂ := 8) (start₁ := 0) rfl, BitVec.extractLsb'_eq_self]

theorem formatF_ok {w : Word} {mk : Bool → Bool → BitVec 9 → BitVec 8 → Instr} {j : Instr}
    (h : formatF w mk = .ok j) : ∃ S O i c, j = mk S O i c ∧ freqSelLegal S O i c = true ∧
      immField w = 0#5 ++ BitVec.ofBool S ++ BitVec.ofBool O ++ i ++ c := by
  unfold formatF at h
  simp only at h
  split at h
  · next reserved =>
    split at h
    · next selects =>
      cases h
      exact ⟨_, _, _, _, rfl, selects, (formatF_immediate reserved).symm⟩
    · cases h
  · cases h

/-- The opcode field from its value. -/
theorem opField_of_toNat {w : Word} {n : Nat} (row : (opField w).toNat = n) : opField w = BitVec.ofNat 8 n := by
  rw [← row, BitVec.ofNat_toNat, BitVec.setWidth_eq]

/-- A word that decodes is the word of a well-formed command: the row of R94 gives its opcode, the format its
immediate. -/
theorem encode_of_decode {w : Word} {i : Instr} (h : decode w = .ok i) : i.wf = true ∧ encode i = w := by
  unfold decode at h
  split at h
  case h_24 => cases h -- no row of R94
  case h_6 row =>
    obtain ⟨reg, rfl, legal, imm⟩ := formatR_ok h
    exact ⟨legal, encode_eq_of_fields (opField_of_toNat row) imm⟩
  case h_7 row =>
    obtain ⟨S, O, j, c, rfl, legal, imm⟩ := formatF_ok h
    exact ⟨legal, encode_eq_of_fields (opField_of_toNat row) imm⟩
  case h_3 row | h_4 row | h_12 row | h_18 row =>
    obtain ⟨u16, rfl, imm⟩ := formatH_ok h
    exact ⟨rfl, encode_eq_of_fields (opField_of_toNat row) imm⟩
  case h_5 row | h_13 row | h_14 row =>
    obtain ⟨u8, rfl, imm⟩ := formatB_ok h
    exact ⟨rfl, encode_eq_of_fields (opField_of_toNat row) imm⟩
  all_goals -- the rows of format Z
    rename_i row
    obtain ⟨rfl, imm⟩ := formatZ_ok h
    exact ⟨rfl, encode_eq_of_fields (opField_of_toNat row) imm⟩

/-- Settles O2: `encode_of_decode`. -/
theorem encodeOfDecodeIsTheWord : Obligations.EncodeOfDecodeIsTheWord := fun _ _ h => encode_of_decode h

/-- Settles O4: eight literal words, each decoded by evaluation. -/
theorem writtenWordsDecode : Obligations.WrittenWordsDecode := by
  unfold Obligations.WrittenWordsDecode
  decide

end Sys2Proof
end

section
/-! Everything a step of the machine can do (R320, R326, R327), and the obligations about the fetch. -/

namespace Sys2Proof.Machine

/-! ### The fetch -/

theorem runStep_of_decode_ok {s : State} {w : Word} {i : Instr} (fetch : s.cmd[s.pc.toNat]? = some w)
    (decoded : decode w = .ok i) : runStep s = exec i s := by
  have inList : s.pc.toNat ≠ s.cmd.length := (List.getElem?_eq_some_iff.mp fetch).1.ne
  simp [runStep, fetch, inList, decoded]

theorem runStep_of_end {s : State} (atEnd : s.pc.toNat = s.cmd.length) :
    runStep s = .next { s with rstate := .done } := if_pos atEnd

/-- A step in which the host makes no move is the block's own. -/
theorem step_of_no_hostTurn {s : State} (noHost : hostTurn s = none) : step s = blockStep (dropTurn s) := by
  rw [step, takeStep, noHost]

theorem blockStep_of_resetting {s : State} (inReset : s.resetting = true) : blockStep s = .next s := if_pos inReset

theorem blockStep_of_run {s : State} (noReset : s.resetting = false) (run : s.rstate = .run) :
    blockStep s = runStep s := by
  simp [blockStep, noReset, run]

/-- The step that fetches a word that decodes runs the command. -/
theorem step_of_decode_ok {s : State} {w : Word} {i : Instr} (fetches : Fetches s w) (decoded : decode w = .ok i) :
    step s = exec i (dropTurn s) := by
  have own : step s = runStep (dropTurn s) := step_of_fetches fetches
  obtain ⟨-, -, -, fetch⟩ := fetches
  exact own.trans (runStep_of_decode_ok (s := dropTurn s) fetch decoded)

/-- Settles O5: `step_of_decode_ok`. -/
theorem stepRunsTheDecodedCommand : Obligations.StepRunsTheDecodedCommand :=
  fun _ _ _ fetches decoded => step_of_decode_ok fetches decoded

/-- Settles O6: the end of the list is `runStep_of_end`, reset and the states outside RUN are those in which the block
executes nothing, and an assertion of reset is a move of the host. -/
theorem stepWithoutACommand : Obligations.StepWithoutACommand := by
  refine ⟨fun s noHost => ⟨fun noReset run atEnd => ?_, fun still => ?_⟩, fun s asserts => step_of_hostTurn asserts⟩
  · rw [step_of_no_hostTurn noHost, blockStep_of_run (s := dropTurn s) noReset run]
    exact runStep_of_end (s := dropTurn s) atEnd
  · rw [step_of_no_hostTurn noHost]
    rcases still with inReset | idle
    · exact blockStep_of_resetting inReset
    · exact blockStep_of_not_run idle

/-! ### Placing a word -/

theorem word_of_toNat_mod (w : Word) : BitVec.ofNat 32 (w.toNat % 2 ^ 32) = w := by
  rw [Nat.mod_eq_of_lt w.isLt, BitVec.ofNat_toNat, BitVec.setWidth_eq]

/-- A word is its four bytes, most significant first (R69). -/
theorem wordOfBytes_slices (w : Word) :
    wordOfBytes (w.extractLsb' 24 8) (w.extractLsb' 16 8) (w.extractLsb' 8 8) (w.extractLsb' 0 8) = w := by
  rw [wordOfBytes, BitVec.extractLsb'_append_extractLsb'_eq_extractLsb' (start₂ := 24) (start₁ := 16) rfl,
    BitVec.extractLsb'_append_extractLsb'_eq_extractLsb' (start₂ := 16) (start₁ := 8) rfl,
    BitVec.extractLsb'_append_extractLsb'_eq_extractLsb' (start₂ := 8) (start₁ := 0) rfl, BitVec.extractLsb'_eq_self]

theorem decodeTableWord_of_decode {w : Word} {i : Instr} (decoded : decode w = .ok i) :
    decodeTableWord 32 w.toNat = some i := by
  have small : ¬ 2 ^ 32 ≤ w.toNat % 2 ^ 32 := by omega
  simp only [decodeTableWord, if_neg small, word_of_toNat_mod, decodeBytes, wordOfBytes_slices, decoded, Except.map]

/-- The word placed at an index is the one found there. -/
theorem placeWord_getElem? (cmd : List Word) (n : Nat) (w : Word) : (placeWord cmd n w)[n]? = some w := by
  have before : (cmd.take n ++ List.replicate (n - cmd.length) 0).length = n := by
    simp only [List.length_append, List.length_take, List.length_replicate]
    omega
  rw [placeWord, List.getElem?_append_right before.le, before, Nat.sub_self, List.getElem?_cons_zero]

theorem fetches_withFetchWord (s : State) (w : Word) : Fetches (s.withFetchWord 32 w.toNat) w := by
  rw [State.withFetchWord, word_of_toNat_mod]
  exact ⟨rfl, rfl, rfl, placeWord_getElem? s.cmd s.pc.toNat w⟩

/-- Settles O7: the placed word is fetched, so the step runs what it decodes to. -/
theorem placedWordRunsNext : Obligations.PlacedWordRunsNext := fun s w _ decoded =>
  ⟨decodeTableWord_of_decode decoded, fetches_withFetchWord s w,
    step_of_decode_ok (fetches_withFetchWord s w) decoded⟩

/-! ### Everything a step can do -/

/-- `Stepped s t`: what a step from `s` that has the next state `t` has done. -/
inductive Stepped (s : State) : State → Prop where
  /-- The block ran the command fetched. -/
  | command {w : Word} {i : Instr} {t : State} : Fetches s w → decode w = .ok i → exec i (dropTurn s) = .next t →
      Stepped s t
  /-- The block fetched an illegal word. -/
  | illegal {w : Word} : Fetches s w → Stepped s (faultEntry .illegal w (dropTurn s))
  /-- The run came to the end of the list. -/
  | listEnd : s.rstate = .run → Stepped s { dropTurn s with rstate := .done }
  /-- Nothing but the slot of the schedule was used up. -/
  | still : Stepped s (dropTurn s)
  /-- The host started a run. -/
  | started : s.rstate = .ready ∨ s.rstate = .done →
      Stepped s { dropTurn s with pc := 0, rstate := .run, inlen := BitVec.ofNat 32 s.inp.length }
  /-- The host asserted reset. -/
  | resetAsserted : Stepped s { dropTurn s with resetting := true }
  /-- A reset completed. -/
  | resetDone : hostTurn s = some .releaseReset → s.resetting = true → Stepped s (resetBlock (dropTurn s))
  /-- The host wrote CMD. -/
  | cmdLoaded (words : List Word) : s.rstate ≠ .run → words.length < 2 ^ 32 →
      Stepped s { dropTurn s with cmd := words }
  /-- The host wrote IN. -/
  | inputLoaded (bytes : List Byte) : s.rstate ≠ .run → bytes.length < 2 ^ 32 →
      Stepped s { dropTurn s with inp := bytes }
  /-- The host read a register. -/
  | windowRead (window : List Word) (draws : Nat) : Stepped s { dropTurn s with window := window, draws := draws }

theorem stepped_of_runStep {s t : State} (run : s.rstate = .run) (noReset : s.resetting = false)
    (noHost : hostTurn s = none) (h : runStep (dropTurn s) = .next t) : Stepped s t := by
  unfold runStep at h
  split at h
  · cases h
    exact .listEnd run
  · split at h
    · cases h
    · next w fetch =>
      have fetches : Fetches s w := ⟨run, noReset, noHost, fetch⟩
      split at h
      · cases h
        exact .illegal fetches
      · next i decoded => exact .command fetches decoded h

theorem stepped_of_blockStep {s t : State} (noHost : hostTurn s = none) (h : blockStep (dropTurn s) = .next t) :
    Stepped s t := by
  by_cases inReset : s.resetting = true
  · rw [blockStep_of_resetting (s := dropTurn s) inReset] at h
    cases h
    exact .still
  · have noReset : s.resetting = false := Bool.eq_false_iff.mpr inReset
    by_cases run : s.rstate = .run
    · rw [blockStep_of_run (s := dropTurn s) noReset run] at h
      exact stepped_of_runStep run noReset noHost h
    · rw [blockStep_of_not_run (s := dropTurn s) run] at h
      cases h
      exact .still

/-- A load that has a next state was made outside a run and is short enough (R12, R77). -/
theorem hostLoad_next {n : Nat} {u s t : State} (h : hostLoad n u s = .next t) :
    s.resetting = false ∧ s.rstate ≠ .run ∧ n < 2 ^ 32 ∧ t = u := by
  unfold hostLoad at h
  split_ifs at h with inReset run tooLong
  cases h
  simp only [Config.maxLength] at tooLong
  exact ⟨Bool.eq_false_iff.mpr inReset, run, by omega, rfl⟩

theorem stepped_of_hostMove {s t : State} {m : HostMove} (turn : hostTurn s = some m)
    (h : hostMove m (dropTurn s) = .next t) : Stepped s t := by
  cases m with
  | start =>
    simp only [hostMove] at h
    split at h
    · cases h
    · cases h
      unfold hostStart
      split
      · next idle => exact .started idle
      · exact .still
  | assertReset =>
    cases h
    exact .resetAsserted
  | releaseReset =>
    cases h
    split
    · next inReset => exact .resetDone turn inReset
    · exact .still
  | loadCmd words =>
    obtain ⟨-, noRun, short, rfl⟩ := hostLoad_next h
    exact .cmdLoaded words noRun short
  | loadInput bytes =>
    obtain ⟨-, noRun, short, rfl⟩ := hostLoad_next h
    exact .inputLoaded bytes noRun short
  | readWindow offset width =>
    simp only [hostMove] at h
    split at h
    · cases h
      unfold hostRead
      split
      · exact .windowRead _ _
      · exact .windowRead _ s.draws
    · cases h
  | writeWindow offset width x =>
    simp only [hostMove] at h
    split at h
    · cases h
      exact .still
    · cases h

/-- Everything a step that has a next state can have done. -/
theorem stepped_of_step {s t : State} (h : step s = .next t) : Stepped s t := by
  cases turn : hostTurn s with
  | some m =>
    rw [step_of_hostTurn turn] at h
    exact stepped_of_hostMove turn h
  | none =>
    rw [step_of_no_hostTurn turn] at h
    exact stepped_of_blockStep turn h

end Sys2Proof.Machine
end

section
/-! The host's moves: starts, loads and accesses to the register window (R70, R77, R323, R326), and the way out of a
fault (R292). -/

namespace Sys2Proof.Machine

/-- Settles O45: in FAULT the block executes nothing, and of the host's moves only the end of a reset touches RSTATE. -/
theorem onlyResetLeavesFault : Obligations.OnlyResetLeavesFault := by
  intro s t faulted h
  have notRun : s.rstate ≠ .run := by simp [faulted]
  cases stepped_of_step h with
  | command fetches => exact absurd fetches.1 notRun
  | illegal fetches => exact absurd fetches.1 notRun
  | listEnd run => exact absurd run notRun
  | started idle => simp [faulted] at idle
  | resetDone turn inReset => exact .inr ⟨turn, inReset, rfl⟩
  | still | resetAsserted | cmdLoaded | inputLoaded | windowRead =>
    exact .inl ⟨faulted, rfl, rfl, rfl, rfl, rfl, rfl⟩

/-! ### Starts and loads -/

theorem step_start_of_idle {s : State} (turn : hostTurn s = some .start) (noReset : s.resetting = false)
    (idle : s.rstate = .ready ∨ s.rstate = .done) : step s = .next { dropTurn s with
      pc := 0, rstate := .run, inlen := BitVec.ofNat 32 s.inp.length } := by
  have noReset' : ¬ (dropTurn s).resetting = true := Bool.eq_false_iff.mp noReset
  have idle' : (dropTurn s).rstate = .ready ∨ (dropTurn s).rstate = .done := idle
  rw [step_of_hostTurn turn, hostMove, if_neg noReset', hostStart, if_pos idle']
  rfl

theorem step_start_ignored {s : State} (turn : hostTurn s = some .start) (noReset : s.resetting = false)
    (busy : s.rstate = .run ∨ s.rstate = .fault) : step s = .next (dropTurn s) := by
  have noReset' : ¬ (dropTurn s).resetting = true := Bool.eq_false_iff.mp noReset
  have notIdle : ¬ ((dropTurn s).rstate = .ready ∨ (dropTurn s).rstate = .done) := by
    rcases busy with h | h <;> simp [h]
  rw [step_of_hostTurn turn, hostMove, if_neg noReset', hostStart, if_neg notIdle]

/-- Settles O49: the two branches of `hostStart`. -/
theorem hostStartBeginsARun : Obligations.HostStartBeginsARun := fun _ turn noReset =>
  ⟨step_start_of_idle turn noReset, step_start_ignored turn noReset⟩

/-- Every case of a load of `n` words or bytes that would leave `u` (R12, R77, R323). -/
theorem hostLoad_cases (n : Nat) (u s : State) :
    (s.resetting = true → hostLoad n u s = .refused .hostActedDuringReset) ∧
    (s.resetting = false → s.rstate = .run → hostLoad n u s = .refused .hostWroteDuringRun) ∧
    (s.resetting = false → s.rstate ≠ .run →
      (n < 2 ^ 32 → hostLoad n u s = .next u) ∧ (2 ^ 32 ≤ n → hostLoad n u s = .refused .launchTooLong)) := by
  refine ⟨fun inReset => if_pos inReset, fun noReset run => ?_, fun noReset notRun => ⟨fun short => ?_, fun long => ?_⟩⟩
  · simp [hostLoad, noReset, run]
  · have fits : ¬ Config.maxLength < n := by simp only [Config.maxLength]; omega
    simp only [hostLoad, noReset, notRun, fits, if_false, Bool.false_eq_true]
  · have tooLong : Config.maxLength < n := by simp only [Config.maxLength]; omega
    simp only [hostLoad, noReset, notRun, tooLong, if_false, if_true, Bool.false_eq_true]

/-! ### The register window -/

theorem windowAligned_iff (offset width : Nat) :
    windowAligned offset width = true ↔ width = 4 ∧ offset % 4 = 0 ∧ offset ≤ 124 := by
  simp [windowAligned, and_assoc]

theorem windowAligned_register {n : Nat} (reg : n ≤ 31) : windowAligned (4 * n) 4 = true := by
  rw [windowAligned_iff]
  omega

theorem not_windowAligned {offset width : Nat} (outside : width ≠ 4 ∨ offset % 4 ≠ 0 ∨ 128 ≤ offset) :
    ¬ windowAligned offset width = true := by
  rw [windowAligned_iff]
  omega

/-- Settles O52: the loads are `hostLoad_cases`, a start during reset is refused before `hostStart`, and the accesses
are those that `windowAligned` excludes. -/
theorem hostDutiesAreEnforced : Obligations.HostDutiesAreEnforced := by
  intro s words bytes offset width x
  refine ⟨fun turn => ?_, fun turn => ?_, fun turn inReset => ?_, fun turn outside => ?_⟩
  · rw [step_of_hostTurn turn]
    exact hostLoad_cases words.length { dropTurn s with cmd := words } (dropTurn s)
  · rw [step_of_hostTurn turn]
    exact hostLoad_cases bytes.length { dropTurn s with inp := bytes } (dropTurn s)
  · rw [step_of_hostTurn turn]
    exact if_pos inReset
  · rcases turn with turn | turn
    · rw [step_of_hostTurn turn]
      exact if_neg (not_windowAligned outside)
    · rw [step_of_hostTurn turn]
      exact if_neg (not_windowAligned outside)

/-- The schedule is in no register. -/
@[simp] theorem readReg_dropTurn (n : Nat) (s : State) : readReg n (dropTurn s) = readReg n s := rfl

theorem readReg_reserved {n : Nat} (reserved : 21 ≤ n) (s : State) : readReg n s = 0 := by
  obtain ⟨k, rfl⟩ := Nat.exists_eq_add_of_le' reserved
  rfl

theorem step_readWindow_quiet {s : State} {n : Nat} (reg : n ≤ 31) (turn : hostTurn s = some (.readWindow (4 * n) 4))
    (notRun : s.rstate ≠ .run) (noReset : s.resetting = false) :
    step s = .next { dropTurn s with window := s.window ++ [readReg n s] } := by
  have quiet : ¬ ((dropTurn s).resetting = true ∨ (dropTurn s).rstate = .run) := by simp [notRun, noReset]
  rw [step_of_hostTurn turn, hostMove, if_pos (windowAligned_register reg), hostRead, if_neg quiet,
    Nat.mul_div_cancel_left n (by decide), readReg_dropTurn]
  rfl

theorem step_readWindow_busy {s : State} {n : Nat} (reg : n ≤ 31) (turn : hostTurn s = some (.readWindow (4 * n) 4))
    (busy : s.rstate = .run ∨ s.resetting = true) :
    step s = .next { dropTurn s with
      window := s.window ++ [Config.windowDraw s.draws], draws := s.draws + 1 } := by
  have busy' : (dropTurn s).resetting = true ∨ (dropTurn s).rstate = .run := busy.symm
  rw [step_of_hostTurn turn, hostMove, if_pos (windowAligned_register reg), hostRead, if_pos busy']
  rfl

theorem step_writeWindow {s : State} {n : Nat} {x : Word} (reg : n ≤ 31)
    (turn : hostTurn s = some (.writeWindow (4 * n) 4 x)) : step s = .next (dropTurn s) := by
  rw [step_of_hostTurn turn, hostMove, if_pos (windowAligned_register reg)]

/-- RDREG of a register that R39 lists pushes it (R125). -/
theorem exec_rdreg {reg : BitVec 5} (listed : reg.toNat ≤ 20) (s : State) :
    exec (.rdreg reg) s = .next { s with res := s.res ++ [readReg reg.toNat s], pc := s.pc + 1 } := by
  rw [exec, execRdreg, require_true ((regLegal_iff reg).mpr listed), complete_ok]
  rfl

theorem irq_iff (s : State) : irq s = true ↔ s.resetting = false ∧ (s.rstate = .done ∨ s.rstate = .fault) := by
  simp [irq]

/-- Settles O51: a quiet read and RDREG both return `readReg`. -/
theorem windowReadsTheRegisters : Obligations.WindowReadsTheRegisters := by
  refine ⟨fun s n reg => ⟨fun notRun noReset turn => ?_, fun busy turn => ?_, fun x turn => step_writeWindow reg turn⟩,
    irq_iff⟩
  · refine ⟨readReg n s, step_readWindow_quiet reg turn notRun noReset, ?_, fun reserved => readReg_reserved reserved s⟩
    rintro r rfl listed
    exact exec_rdreg listed s
  · exact ⟨_, step_readWindow_busy reg turn busy⟩

end Sys2Proof.Machine
end

section
/-! The configuration and the registers as RDREG and RDFREQ push them (R25, R29, R39, R124 to R126, R260). -/

namespace Sys2Proof

/-- A concatenation as a number. -/
theorem append_toNat {m n : Nat} (a : BitVec m) (b : BitVec n) : (a ++ b).toNat = a.toNat * 2 ^ n + b.toNat := by
  rw [BitVec.toNat_append, ← Nat.shiftLeft_add_eq_or_of_lt b.isLt, Nat.shiftLeft_eq]

end Sys2Proof

namespace Sys2Proof.Machine

/-- Settles O10: the check of the mode passes. -/
theorem cfgWritesPalszInIdle : Obligations.CfgWritesPalszInIdle := by
  intro s u8 idle
  have inIdle : (s.mode == .idle) = true := beq_iff_eq.mpr idle
  rw [exec, execCfg, require_true inIdle, complete_ok]

/-! ### Palette quantities -/

theorem paletteSize_bounds (s : State) : 1 ≤ paletteSize s ∧ paletteSize s ≤ 256 := by
  unfold paletteSize
  have := s.palsz.isLt
  split <;> omega

/-- For a palette size, `ceilLog2` is the least sufficient exponent (R260). -/
theorem ceilLog2_least {x : Nat} (small : x ≤ 256) : x ≤ 2 ^ ceilLog2 x ∧ ∀ b, x ≤ 2 ^ b → ceilLog2 x ≤ b := by
  have found : ∃ b, (List.range 9).find? (fun b => decide (x ≤ 2 ^ b)) = some b := by
    rw [← Option.isSome_iff_exists, List.find?_isSome]
    exact ⟨8, by decide, decide_eq_true small⟩
  obtain ⟨b, found⟩ := found
  have value : ceilLog2 x = b := by
    rw [ceilLog2, show [0, 1, 2, 3, 4, 5, 6, 7, 8] = List.range 9 from rfl, found, Option.getD_some]
  obtain ⟨enough, -, before⟩ := List.find?_range_eq_some.mp found
  rw [value]
  refine ⟨of_decide_eq_true enough, fun c hc => ?_⟩
  by_contra less
  simpa [hc] using before c (Nat.lt_of_not_le less)

/-- The width is that of the palette size, which needs at least one bit and at most eight (R260). -/
theorem bitsPerIndex_bounds (s : State) : 1 ≤ bitsPerIndex s ∧ bitsPerIndex s ≤ 8 := by
  have small : max (paletteSize s) 2 ≤ 256 := max_le (paletteSize_bounds s).2 (by decide)
  refine ⟨le_min ?_ (by decide), min_le_right ..⟩
  by_contra none
  have zero : ceilLog2 (max (paletteSize s) 2) = 0 := by omega
  have enough := (ceilLog2_least small).1
  rw [zero] at enough
  omega

theorem bitsPerIndex_eq (s : State) : bitsPerIndex s = ceilLog2 (max (paletteSize s) 2) :=
  have small : max (paletteSize s) 2 ≤ 256 := max_le (paletteSize_bounds s).2 (by decide)
  min_eq_left ((ceilLog2_least small).2 8 small)

/-- The eight index widths and how many indices of each a byte holds (R260). -/
theorem indicesPerByte_mem (s : State) : indicesPerByte s ∈ [8, 4, 2, 1] := by
  obtain ⟨low, high⟩ := bitsPerIndex_bounds s
  unfold indicesPerByte
  interval_cases bitsPerIndex s <;> decide

theorem indicesPerByte_bounds (s : State) : 1 ≤ indicesPerByte s ∧ indicesPerByte s ≤ 8 := by
  have := indicesPerByte_mem s
  simp only [List.mem_cons, List.not_mem_nil, or_false] at this
  omega

/-- The indices of a byte fit the byte. -/
theorem indicesPerByte_mul_le (s : State) : indicesPerByte s * bitsPerIndex s ≤ 8 := Nat.div_mul_le_self 8 _

/-- The CFG register as a number: no field overlaps another (R29). -/
theorem cfgWord_toNat (s : State) : (cfgWord s).toNat =
    s.palsz.toNat + 2 ^ 8 * bitsPerIndex s + 2 ^ 12 * indicesPerByte s + 2 ^ 16 * paletteSize s := by
  have palette := paletteSize_bounds s
  have bits := bitsPerIndex_bounds s
  have indices := indicesPerByte_bounds s
  simp only [cfgWord, append_toNat, BitVec.toNat_ofNat]
  omega

/-- Settles O11: the width is the least sufficient one by `ceilLog2_least`, and CFG is a number by `cfgWord_toNat`. -/
theorem paletteQuantitiesFollowPalsz : Obligations.PaletteQuantitiesFollowPalsz := by
  intro s
  have small : max (paletteSize s) 2 ≤ 256 := max_le (paletteSize_bounds s).2 (by decide)
  obtain ⟨enough, least⟩ := ceilLog2_least small
  rw [← bitsPerIndex_eq] at enough least
  exact ⟨rfl, enough, least, (bitsPerIndex_bounds s).1, (bitsPerIndex_bounds s).2, rfl, indicesPerByte_mem s,
    cfgWord_toNat s⟩

/-! ### RDREG and RDFREQ -/

theorem packWord_toNat (s : State) : (packWord s).toNat = 2 ^ 8 * s.pcnt.toNat + s.pacc.toNat := by
  simp only [packWord, append_toNat, BitVec.toNat_ofNat]
  omega

theorem unpackWord_toNat (s : State) : (unpackWord s).toNat = 2 ^ 8 * s.ucnt.toNat + s.ubuf.toNat := by
  simp only [unpackWord, append_toNat, BitVec.toNat_ofNat]
  omega

theorem ctxidLow_toNat (s : State) : (readReg 11 s).toNat = s.ctxid.toNat % 2 ^ 32 := by
  rw [readReg, BitVec.extractLsb'_toNat, Nat.shiftRight_zero]

theorem ctxidHigh_toNat (s : State) : (readReg 12 s).toNat = s.ctxid.toNat / 2 ^ 32 := by
  rw [readReg, BitVec.extractLsb'_toNat, Nat.shiftRight_eq_div_pow]
  omega

theorem qscaleReg_toNat (s : State) : (readReg 15 s).toNat = s.qscale.toNat := by
  rw [readReg, BitVec.toNat_setWidth]
  omega

/-- Settles O12: the value pushed is `readReg`, whose rows are plain fields, STATUS, CFG, or a register made of two
fields. -/
theorem rdregPushesTheRegister : Obligations.RdregPushesTheRegister := by
  intro s reg listed
  refine ⟨readReg reg.toNat s, exec_rdreg listed s, ?_⟩
  refine ⟨?_, ?_, ?_, ?_, ?_, ?_, ?_, ?_, ?_, ?ctxLow, ?ctxHigh, ?pack, ?unpack, ?qscale, ?_, ?_, ?_, ?_, ?_, ?_, ?_⟩
  case ctxLow => rintro rfl; exact ctxidLow_toNat s
  case ctxHigh => rintro rfl; exact ctxidHigh_toNat s
  case pack => rintro rfl; exact packWord_toNat s
  case unpack => rintro rfl; exact unpackWord_toNat s
  case qscale => rintro rfl; exact qscaleReg_toNat s
  all_goals rintro rfl; rfl

/-- Settles O13: each field is a slice of the concatenation that STATUS is. -/
theorem statusIsAssembledFromItsFields : Obligations.StatusIsAssembledFromItsFields := by
  intro s
  refine ⟨?rstate, ?mode, ?qpend, ?ovr, ?vovf, ?pastend, ?rest⟩
  case rstate =>
    rw [statusWord, extract_low]
    cases s.rstate <;> rfl
  case mode =>
    rw [statusWord, extract_above _ s.rstate.bits 0 2, extract_low]
    cases s.mode <;> rfl
  case rest =>
    rw [statusWord, extract_above _ s.rstate.bits 6 24, extract_above _ s.mode.bits 4 24,
      extract_above _ (BitVec.ofBool s.qpend) 3 24, extract_above _ (BitVec.ofBool s.ovr) 2 24,
      extract_above _ (BitVec.ofBool s.vovf) 1 24, extract_above _ (BitVec.ofBool s.pastend) 0 24]
    rfl
  all_goals
    simp only [statusWord, BitVec.getLsbD_append]
    simp

/-- Settles O14: the check of the operands passes, and `readFreq` selects as its flags say. -/
theorem rdfreqPushesTheSelectedCount : Obligations.RdfreqPushesTheSelectedCount := by
  intro s S O i c index table sum
  have legal : freqSelLegal S O i c = true := by
    rw [freqSelLegal_iff]
    exact ⟨index, fun h => by rw [table h]; rfl, fun h => by rw [sum h]; rfl⟩
  rw [exec, execRdfreq, require_true legal, complete_ok]
  cases S <;> cases O <;> rfl

end Sys2Proof.Machine
end

section
/-! ENC_INIT, DEC_INIT and ENC_FLUSH (R36, R176, R177, R180). -/

namespace Sys2Proof.Machine

/-- The tables of a state that `InitCoderModel` has written (R34, R36). -/
theorem tables_of_init {s : State} (order2 : s.tables = []) (order0 : s.order0 = Table.ones) :
    (∀ (c : BitVec 8) (i : Nat), (readTable c s).sum = 0 ∧ (readTable c s).count i = 0) ∧
    (∀ i, i ≤ 256 → s.order0.count i = 1) ∧ s.order0.sum = 257 := by
  refine ⟨fun c i => ?_, fun i hi => ?_, ?_⟩
  · rw [readTable_of_tables_nil order2, Table.empty_sum, Table.empty_count]
    exact ⟨rfl, rfl⟩
  · rw [order0, Table.ones_count hi]
  · rw [order0, Table.ones_sum]

theorem exec_encInit (s : State) : exec .encInit s = .next { initCoderModel .enc s with pc := s.pc + 1 } := rfl

/-- Settles O19: the state is that of `InitCoderModel`. -/
theorem encInitInitialises : Obligations.EncInitInitialises := fun s =>
  ⟨_, exec_encInit s, rfl, tables_of_init rfl rfl⟩

/-- DEC_INIT reads the four bytes that stand at INPTR before it: its initialisation writes no register of the input
stream. -/
theorem exec_decInit (s : State) : ∃ (b0 b1 b2 b3 : Byte) (r : State), inReads 4 s = ([b0, b1, b2, b3], r) ∧
    exec .decInit s = .next { initCoderModel .dec r with code := b0 ++ b1 ++ b2 ++ b3, pc := s.pc + 1 } :=
  ⟨_, _, _, _, _, rfl, rfl⟩

/-- Settles O20: `exec_decInit`, with the concatenation of the bytes as a number. -/
theorem decInitLoadsFourBytes : Obligations.DecInitLoadsFourBytes := by
  intro s
  obtain ⟨b0, b1, b2, b3, r, reads, init⟩ := exec_decInit s
  refine ⟨b0, b1, b2, b3, r, _, reads, init, rfl, ?_, tables_of_init rfl rfl⟩
  change (b0 ++ b1 ++ b2 ++ b3).toNat = _
  rw [append_toNat, append_toNat, append_toNat]
  omega

/-- The top byte after a shift is the byte below it. -/
theorem topByte_shiftLeft (w : Word) (k : Nat) (hk : k ≤ 24) :
    (w <<< k).extractLsb' 24 8 = w.extractLsb' (24 - k) 8 := by
  apply BitVec.eq_of_getLsbD_eq
  intro i hi
  have index : 24 + i - k = 24 - k + i := by omega
  have inWord : 24 + i < 32 := by omega
  have notBelow : ¬ 24 + i < k := by omega
  simp only [BitVec.getLsbD_extractLsb', BitVec.getLsbD_shiftLeft, index, inWord, notBelow, decide_true, decide_false,
    Bool.not_false, Bool.true_and]

/-- The four rounds of the flush (R177). -/
theorem flushBytes (s : State) : flushByte (flushByte (flushByte (flushByte s))) = { s with
    out := s.out ++ [s.low.extractLsb' 24 8, s.low.extractLsb' 16 8, s.low.extractLsb' 8 8, s.low.extractLsb' 0 8]
    outcnt := s.outcnt + 4, low := 0 } := by
  have low : s.low <<< 8 <<< 8 <<< 8 <<< 8 = 0 := by
    rw [← BitVec.shiftLeft_add, ← BitVec.shiftLeft_add, ← BitVec.shiftLeft_add]
    exact BitVec.shiftLeft_eq_zero (by decide)
  have byte2 : (s.low <<< 8).extractLsb' 24 8 = s.low.extractLsb' 16 8 := topByte_shiftLeft s.low 8 (by decide)
  have byte1 : (s.low <<< 8 <<< 8).extractLsb' 24 8 = s.low.extractLsb' 8 8 := by
    rw [← BitVec.shiftLeft_add, topByte_shiftLeft s.low 16 (by decide)]
  have byte0 : (s.low <<< 8 <<< 8 <<< 8).extractLsb' 24 8 = s.low.extractLsb' 0 8 := by
    rw [← BitVec.shiftLeft_add, ← BitVec.shiftLeft_add, topByte_shiftLeft s.low 24 (by decide)]
  have count : s.outcnt + 1 + 1 + 1 + 1 = s.outcnt + 4 := by bv_omega
  simp only [flushByte, outWrite, low, byte2, byte1, byte0, count, List.append_assoc, List.cons_append,
    List.nil_append]

/-- Settles O21: both checks pass, and the work is `flushBytes`. -/
theorem encFlushWritesLow : Obligations.EncFlushWritesLow := by
  intro s enc empty
  have inEnc : (s.mode == .enc) = true := beq_iff_eq.mpr enc
  have unpacked : (s.pcnt == 0) = true := beq_iff_eq.mpr empty
  rw [exec, execEncFlush, require_true inEnc, require_true unpacked, flushBytes, complete_ok]

end Sys2Proof.Machine
end

section
/-! VAR_DEC on any input (R152). -/

namespace Sys2Proof.Machine

/-- A group above the ones already read is added to the value, its bits beyond bit 31 dropped. -/
theorem or_group_eq_add {low : Word} {k : Nat} (index : k ≤ 4) (below : low.toNat < 2 ^ (7 * k)) (g : Nat) :
    low ||| BitVec.ofNat 32 (g <<< (7 * k)) = low + BitVec.ofNat 32 (2 ^ (7 * k) * g) := by
  have whole : 2 ^ 32 = 2 ^ (7 * k) * 2 ^ (32 - 7 * k) := by
    rw [← Nat.pow_add]
    congr 1
    omega
  have kept : 2 ^ (7 * k) * g % 2 ^ 32 = 2 ^ (7 * k) * (g % 2 ^ (32 - 7 * k)) := by
    rw [whole, Nat.mul_mod_mul_left]
  have fits : 2 ^ (7 * k) * (g % 2 ^ (32 - 7 * k)) + low.toNat < 2 ^ 32 := by
    have : 2 ^ (7 * k) * (g % 2 ^ (32 - 7 * k) + 1) ≤ 2 ^ 32 := by
      rw [whole]
      exact Nat.mul_le_mul_left _ (Nat.mod_lt _ (Nat.two_pow_pos _))
    rw [Nat.mul_succ] at this
    omega
  apply BitVec.eq_of_toNat_eq
  rw [BitVec.toNat_or, BitVec.toNat_add, BitVec.toNat_ofNat, BitVec.toNat_ofNat, Nat.shiftLeft_eq, Nat.mul_comm g,
    kept, Nat.or_comm, ← Nat.two_pow_add_eq_or_of_lt below, Nat.add_comm low.toNat, Nat.mod_eq_of_lt fits]

/-- The value after a group still lies below the groups to come. -/
theorem add_group_toNat_lt {low : Word} {k : Nat} (below : low.toNat < 2 ^ (7 * k)) {g : Nat} (group : g < 128) :
    (low + BitVec.ofNat 32 (2 ^ (7 * k) * g)).toNat < 2 ^ (7 * (k + 1)) := by
  have : 2 ^ (7 * k) * g ≤ 2 ^ (7 * k) * 127 := Nat.mul_le_mul_left _ (by omega)
  calc (low + BitVec.ofNat 32 (2 ^ (7 * k) * g)).toNat
      ≤ low.toNat + 2 ^ (7 * k) * g := by
        rw [BitVec.toNat_add, BitVec.toNat_ofNat]
        exact (Nat.mod_le ..).trans (Nat.add_le_add_left (Nat.mod_le ..) _)
    _ < 2 ^ (7 * (k + 1)) := by rw [two_pow_groups_succ]; omega

/-- A round of R152 after `k` bytes: the group read joins the value, and VOVF records dropped bits. -/
theorem varintRead_succ {n k : Nat} (round : n + 1 + k = 5) {low : Word} (below : low.toNat < 2 ^ (7 * k)) (s : State) :
    varintRead (n + 1) low s =
      let b := nextByte s
      let value := low + BitVec.ofNat 32 (2 ^ (7 * k) * (b.toNat % 128))
      let t := if n = 0 ∧ 16 ≤ b.toNat % 128 then setVovf (afterRead s) else afterRead s
      if 128 ≤ b.toNat then varintRead n value t else (value, t) := by
  have index : 5 - (n + 1) = k := by omega
  have group : ((nextByte s).extractLsb' 0 7).toNat = (nextByte s).toNat % 128 := by simp
  have dropped : 2 ^ 32 ≤ ((nextByte s).toNat % 128) <<< (7 * k) ↔ n = 0 ∧ 16 ≤ (nextByte s).toNat % 128 := by
    rw [Nat.shiftLeft_eq]
    have few : k ≤ 4 := by omega
    interval_cases k <;> omega
  simp only [varintRead, inRead, index, group, dropped, or_group_eq_add (by omega) below, continuation_iff]

/-- The value of a group and of the bytes that follow it. -/
theorem add_groups (low : Word) (k : Nat) (b : Byte) (bs : List Byte) :
    low + BitVec.ofNat 32 (2 ^ (7 * k) * (b.toNat % 128)) + BitVec.ofNat 32 (2 ^ (7 * (k + 1)) * varintValue bs) =
      low + BitVec.ofNat 32 (2 ^ (7 * k) * varintValue (b :: bs)) := by
  rw [BitVec.add_assoc, ← BitVec.ofNat_add, two_pow_groups_succ, varintValue]
  congr 2
  ring

/-- The loop of R152 with `n + 1` bytes allowed and `k` groups read, on any input. -/
theorem varintRead_spec {n k : Nat} (round : n + 1 + k = 5) {low : Word} (below : low.toNat < 2 ^ (7 * k)) (s : State) :
    ∃ (bs : List Byte) (last : Byte) (t : State),
      inReads (bs.length + 1) s = (bs ++ [last], t) ∧ bs.length ≤ n ∧ (∀ b ∈ bs, 128 ≤ b.toNat) ∧
      (last.toNat < 128 ∨ bs.length = n) ∧
      varintRead (n + 1) low s = (low + BitVec.ofNat 32 (2 ^ (7 * k) * varintValue (bs ++ [last])),
        { t with vovf := s.vovf || (decide (bs.length = n) && decide (16 ≤ last.toNat)) }) := by
  induction n generalizing k low s with
  | zero =>
    refine ⟨[], nextByte s, afterRead s, rfl, le_rfl, by simp, .inr rfl, ?_⟩
    rw [varintRead_succ round below, List.nil_append, varintValue, varintValue, Nat.mul_zero, Nat.add_zero]
    by_cases continued : 128 ≤ (nextByte s).toNat
    · have flagged : 16 ≤ (nextByte s).toNat := by omega
      simp only [continued, flagged, varintRead, List.length_nil, decide_true, Bool.and_true, Bool.or_true, if_true]
      split <;> rfl
    · have group : (nextByte s).toNat % 128 = (nextByte s).toNat := Nat.mod_eq_of_lt (by omega)
      by_cases dropped : 16 ≤ (nextByte s).toNat
      · simp only [continued, group, dropped, List.length_nil, decide_true, Bool.and_true, Bool.or_true, and_true, if_true,
          if_false]
        rfl
      · simp only [continued, group, dropped, decide_false, Bool.and_false, Bool.or_false, and_false, if_false]
        rfl
  | succ n ih =>
    rw [varintRead_succ round below]
    have noDrop : ¬ (n + 1 = 0 ∧ 16 ≤ (nextByte s).toNat % 128) := by omega
    simp only [if_neg noDrop]
    by_cases continued : 128 ≤ (nextByte s).toNat
    · have below' := add_group_toNat_lt below (Nat.mod_lt (nextByte s).toNat (by decide : 0 < 128))
      obtain ⟨bs, last, t, reads, few, high, ends, rest⟩ := ih (by omega : n + 1 + (k + 1) = 5) below' (afterRead s)
      refine ⟨nextByte s :: bs, last, t, ?_, Nat.succ_le_succ few, List.forall_mem_cons.mpr ⟨continued, high⟩,
        ends.imp_right (congrArg (· + 1)), ?_⟩
      · rw [List.length_cons, inReads, inRead_snd, reads]
        rfl
      · rw [if_pos continued, rest, add_groups, afterRead_vovf]
        simp
    · refine ⟨[], nextByte s, afterRead s, rfl, Nat.zero_le _, by simp, .inl (by omega), ?_⟩
      rw [if_neg continued, List.nil_append, varintValue, varintValue, Nat.mul_zero, Nat.add_zero]
      have early : ¬ ([] : List Byte).length = n + 1 := Nat.zero_ne_add_one n
      simp only [early, decide_false, Bool.false_and, Bool.or_false]
      rfl

/-- Settles O17: `varintRead_spec` for the whole loop. -/
theorem varDecReadsAtMostFiveBytes : Obligations.VarDecReadsAtMostFiveBytes := by
  intro s
  obtain ⟨bs, last, t, reads, few, continued, ends, read⟩ := varintRead_spec (n := 4) (k := 0) rfl (low := 0) (by decide) s
  refine ⟨bs, last, t, reads, few, continued, ends, ?_⟩
  have kept : t.res = s.res := by
    obtain ⟨past, state⟩ := inReads_state (bs.length + 1) s
    rw [reads] at state
    exact (congrArg State.res state :)
  have value : (0 : Word) + BitVec.ofNat 32 (2 ^ (7 * 0) * varintValue (bs ++ [last])) =
      BitVec.ofNat 32 (varintValue (bs ++ [last])) := by simp
  rw [exec, execVarDec, read, value, ← kept]
  rfl

end Sys2Proof.Machine
end

section
/-! The renormalisation loop (R172 to R175): its trigger in numbers, its termination, and what holds where it exits. -/

namespace Sys2Proof.Machine

/-! ### The trigger in numbers -/

/-- Two `n`-bit numbers differ in every bit exactly where they add up to the largest one. -/
theorem xor_eq_two_pow_sub_one_iff {a b n : Nat} (ha : a < 2 ^ n) (hb : b < 2 ^ n) :
    a ^^^ b = 2 ^ n - 1 ↔ a + b = 2 ^ n - 1 := by
  have complement : BitVec.ofNat n a ^^^ BitVec.ofNat n b = BitVec.allOnes n ↔ BitVec.ofNat n b = ~~~BitVec.ofNat n a := by
    rw [← BitVec.xor_allOnes]
    constructor
    · intro h
      rw [← h, ← BitVec.xor_assoc, BitVec.xor_self, BitVec.zero_xor]
    · intro h
      rw [h, ← BitVec.xor_assoc, BitVec.xor_self, BitVec.zero_xor]
  simp only [← BitVec.toNat_inj, BitVec.toNat_xor, BitVec.toNat_not, BitVec.toNat_allOnes, BitVec.toNat_ofNat,
    Nat.mod_eq_of_lt ha, Nat.mod_eq_of_lt hb] at complement
  omega

/-- The trigger of R172 as arithmetic: the top bytes differ, or the lower 24 bits all do. -/
theorem triggered_iff (low range : Word) : triggered low range ↔
    low.toNat / 2 ^ 24 ≠ (low + range).toNat / 2 ^ 24 ∨
      low.toNat % 2 ^ 24 + (low + range).toNat % 2 ^ 24 = 2 ^ 24 - 1 := by
  have upper := Nat.xor_div_two_pow (a := low.toNat) (b := (low + range).toNat) (n := 24)
  have lower := Nat.xor_mod_two_pow (a := low.toNat) (b := (low + range).toNat) (n := 24)
  have ones := xor_eq_two_pow_sub_one_iff (Nat.mod_lt low.toNat (Nat.two_pow_pos 24))
    (Nat.mod_lt (low + range).toNat (Nat.two_pow_pos 24))
  rw [triggered, BitVec.toNat_xor]
  by_cases same : low.toNat / 2 ^ 24 = (low + range).toNat / 2 ^ 24
  · rw [same, Nat.xor_self] at upper
    omega
  · have differ : low.toNat / 2 ^ 24 ^^^ (low + range).toNat / 2 ^ 24 ≠ 0 := fun h => same (Nat.xor_eq_zero_iff.mp h)
    omega

theorem shiftByte_toNat (w : Word) : (w <<< 8).toNat = w.toNat * 2 ^ 8 % 2 ^ 32 := by
  rw [BitVec.toNat_shiftLeft, Nat.shiftLeft_eq]

/-- The RANGE of the underflow expansion as a number. -/
theorem expansion_toNat (low : Word) :
    (BitVec.ofNat 32 (2 ^ 14 - low.toNat % 2 ^ 14)).toNat = 2 ^ 14 - low.toNat % 2 ^ 14 := by
  rw [BitVec.toNat_ofNat]
  omega

/-! ### The underflow expansion -/

/-- Where the underflow expansion runs, bits 14 to 22 of LOW are set and LOW + RANGE carries past bit 13
(R174). -/
theorem expansion_facts {low range : Word} (trig : triggered low range) (small : range.toNat < 2 ^ 14) :
    low.toNat % 2 ^ 14 ≠ 0 ∧ 2 ^ 14 ≤ low.toNat % 2 ^ 14 + range.toNat ∧ low.toNat / 2 ^ 14 % 2 ^ 9 = 511 := by
  rw [triggered_iff, BitVec.toNat_add] at trig
  have := low.isLt
  omega

theorem renormTest_of_expand {low range : Word} (trig : triggered low range) (small : range.toNat < 2 ^ 14) :
    renormTest low range = some (BitVec.ofNat 32 (2 ^ 14 - low.toNat % 2 ^ 14)) := by
  have notLarge : ¬ Config.probMax ≤ range.toNat := Nat.not_le_of_lt small
  rw [renormTest, if_pos (show Config.codeMax ≤ _ from trig), if_neg notLarge]

theorem renormTest_of_not_triggered {low range : Word} (quiet : ¬ triggered low range) :
    renormTest low range = some range := if_neg quiet

/-- Settles O24: `expansion_facts`. -/
theorem underflowExpansionShrinksRange : Obligations.UnderflowExpansionShrinksRange := by
  intro low range trig small
  obtain ⟨notMultiple, carries, -⟩ := expansion_facts trig small
  refine ⟨notMultiple, _, renormTest_of_expand trig small, ?_⟩
  rw [expansion_toNat]
  omega

/-! ### Termination -/

/-- After an expansion and its shift, bits 22 to 30 of LOW are set and LOW + RANGE is a multiple of `2^31`. Such a loop
is triggered and makes at most one round: a second expansion leaves RANGE as it is, and its shift makes it large. -/
theorem Renorm.after_expansion {low range : Word} (ones : low.toNat / 2 ^ 22 % 2 ^ 9 = 511)
    (aligned : (low.toNat + range.toNat) % 2 ^ 31 = 0) (shifted : range.toNat % 2 ^ 8 = 0) :
    ∃ bs low' range', Renorm low range bs low' range' ∧ bs.length ≤ 1 := by
  have trig : triggered low range := by
    rw [triggered_iff, BitVec.toNat_add]
    omega
  by_cases large : 2 ^ 14 ≤ range.toNat
  · exact ⟨[], low, range, .exit trig large, Nat.zero_le _⟩
  · have next : triggered (low <<< 8) (BitVec.ofNat 32 (2 ^ 14 - low.toNat % 2 ^ 14) <<< 8) := by
      rw [triggered_iff, BitVec.toNat_add, shiftByte_toNat, shiftByte_toNat, expansion_toNat]
      omega
    have grown : 2 ^ 14 ≤ (BitVec.ofNat 32 (2 ^ 14 - low.toNat % 2 ^ 14) <<< 8).toNat := by
      rw [shiftByte_toNat, expansion_toNat]
      omega
    exact ⟨_, _, _, .expand trig (Nat.lt_of_not_le large) (.exit next grown), le_rfl⟩

/-- A triggered loop ends within two rounds. -/
theorem Renorm.of_triggered {low range : Word} (trig : triggered low range) :
    ∃ bs low' range', Renorm low range bs low' range' ∧ bs.length ≤ 2 := by
  by_cases large : 2 ^ 14 ≤ range.toNat
  · exact ⟨[], low, range, .exit trig large, Nat.zero_le _⟩
  · have small : range.toNat < 2 ^ 14 := Nat.lt_of_not_le large
    have lowShift := shiftByte_toNat low
    have rangeShift := shiftByte_toNat (BitVec.ofNat 32 (2 ^ 14 - low.toNat % 2 ^ 14))
    rw [expansion_toNat] at rangeShift
    have bits : (low <<< 8).toNat / 2 ^ 22 % 2 ^ 9 = 511 ∧
        ((low <<< 8).toNat + (BitVec.ofNat 32 (2 ^ 14 - low.toNat % 2 ^ 14) <<< 8).toNat) % 2 ^ 31 = 0 := by
      obtain ⟨-, -, ones⟩ := expansion_facts trig small
      omega
    obtain ⟨bs, low', range', rest, few⟩ := Renorm.after_expansion bits.1 bits.2 (by omega)
    exact ⟨_, low', range', .expand trig small rest, Nat.succ_le_succ few⟩

/-- A loop that is not triggered makes a round first. -/
theorem Renorm.of_not_triggered {low range : Word} {n : Nat} (quiet : ¬ triggered low range)
    (rest : ∃ bs low' range', Renorm (low <<< 8) (range <<< 8) bs low' range' ∧ bs.length ≤ n) :
    ∃ bs low' range', Renorm low range bs low' range' ∧ bs.length ≤ n + 1 := by
  obtain ⟨bs, low', range', loop, few⟩ := rest
  exact ⟨_, low', range', .settled quiet loop, Nat.succ_le_succ few⟩

/-- A triggered loop whose RANGE two shifts have made a multiple of `2^16` exits: no expansion runs. -/
theorem Renorm.of_triggered_shifted {low range : Word} (trig : triggered low range) (shifted : range.toNat % 2 ^ 16 = 0) :
    Renorm low range [] low range := by
  refine .exit trig ?_
  by_contra small
  obtain ⟨-, carries, -⟩ := expansion_facts trig (Nat.lt_of_not_le small)
  omega

/-- A loop that is not triggered has the top byte of LOW settled. -/
theorem topByte_of_not_triggered {low range : Word} (quiet : ¬ triggered low range) :
    low.toNat / 2 ^ 24 = (low.toNat + range.toNat) % 2 ^ 32 / 2 ^ 24 := by
  rw [triggered_iff, not_or, not_not, BitVec.toNat_add] at quiet
  exact quiet.1

/-- The loop of R172 ends within three rounds from every RANGE but 0 (R175): each round that is not triggered settles
one more byte of LOW, and LOW and LOW + RANGE differ in one of the four. -/
theorem Renorm.exists_of_ne_zero {low range : Word} (nonzero : range ≠ 0) :
    ∃ bs low' range', Renorm low range bs low' range' ∧ bs.length ≤ 3 := by
  have positive : range.toNat ≠ 0 := fun h => nonzero (BitVec.eq_of_toNat_eq h)
  by_cases quiet0 : triggered low range
  · obtain ⟨bs, low', range', loop, few⟩ := Renorm.of_triggered quiet0
    exact ⟨bs, low', range', loop, few.trans (by decide)⟩
  refine Renorm.of_not_triggered quiet0 ?_
  by_cases quiet1 : triggered (low <<< 8) (range <<< 8)
  · exact Renorm.of_triggered quiet1
  refine Renorm.of_not_triggered quiet1 ?_
  by_cases quiet2 : triggered (low <<< 8 <<< 8) (range <<< 8 <<< 8)
  · refine ⟨_, _, _, Renorm.of_triggered_shifted quiet2 ?_, Nat.zero_le _⟩
    rw [shiftByte_toNat, shiftByte_toNat]
    omega
  refine Renorm.of_not_triggered quiet2 ?_
  have byte3 := topByte_of_not_triggered quiet0
  have byte2 := topByte_of_not_triggered quiet1
  have byte1 := topByte_of_not_triggered quiet2
  have trig3 : triggered (low <<< 8 <<< 8 <<< 8) (range <<< 8 <<< 8 <<< 8) := by
    rw [triggered_iff, BitVec.toNat_add]
    simp only [shiftByte_toNat] at byte2 byte1 ⊢
    omega
  refine ⟨_, _, _, Renorm.of_triggered_shifted trig3 ?_, le_rfl⟩
  rw [shiftByte_toNat, shiftByte_toNat, shiftByte_toNat]
  omega

/-! ### Where the loop exits -/

/-- The loop is a function of LOW and RANGE. -/
theorem Renorm.unique {low range low1 range1 low2 range2 : Word} {bs1 bs2 : List Byte}
    (h1 : Renorm low range bs1 low1 range1) (h2 : Renorm low range bs2 low2 range2) :
    bs1 = bs2 ∧ low1 = low2 ∧ range1 = range2 := by
  induction h1 generalizing bs2 with
  | exit trig large =>
    cases h2 with
    | exit => exact ⟨rfl, rfl, rfl⟩
    | expand _ small => omega
    | settled quiet => contradiction
  | expand trig small _ ih =>
    cases h2 with
    | exit _ large => omega
    | expand _ _ rest =>
      obtain ⟨rfl, rfl, rfl⟩ := ih rest
      exact ⟨rfl, rfl, rfl⟩
    | settled quiet => contradiction
  | settled quiet _ ih =>
    cases h2 with
    | exit trig => contradiction
    | expand trig => contradiction
    | settled _ rest =>
      obtain ⟨rfl, rfl, rfl⟩ := ih rest
      exact ⟨rfl, rfl, rfl⟩

/-- From where the loop exited it exits at once. -/
theorem Renorm.exited {low range low' range' : Word} {bs : List Byte} (h : Renorm low range bs low' range') :
    Renorm low' range' [] low' range' := by
  induction h with
  | exit trig large => exact .exit trig large
  | expand _ _ _ ih => exact ih
  | settled _ _ ih => exact ih

/-- The loop exits with RANGE at least PROB_MAX. -/
theorem Renorm.range_large {low range low' range' : Word} {bs : List Byte} (h : Renorm low range bs low' range') :
    2 ^ 14 ≤ range'.toNat := by
  induction h with
  | exit _ large => exact large
  | expand _ _ _ ih => exact ih
  | settled _ _ ih => exact ih

/-- The loop keeps the interval inside `2^32` (R175). -/
theorem Renorm.interval_le {low range low' range' : Word} {bs : List Byte} (h : Renorm low range bs low' range')
    (inside : low.toNat + range.toNat ≤ 2 ^ 32) : low'.toNat + range'.toNat ≤ 2 ^ 32 := by
  induction h with
  | exit => exact inside
  | @expand low range _ _ _ trig small _ ih =>
    apply ih
    rw [triggered_iff, BitVec.toNat_add] at trig
    rw [shiftByte_toNat, shiftByte_toNat, expansion_toNat]
    omega
  | @settled low range _ _ _ quiet rest ih =>
    apply ih
    have byte := topByte_of_not_triggered quiet
    rw [shiftByte_toNat, shiftByte_toNat]
    omega

/-- From RANGE 0 the loop never exits (`90_conflicts.md` C3). -/
theorem Renorm.range_ne_zero {low range low' range' : Word} {bs : List Byte} (h : Renorm low range bs low' range') :
    range ≠ 0 := by
  induction h with
  | exit _ large =>
    rintro rfl
    exact absurd large (by decide)
  | expand trig small =>
    rintro rfl
    obtain ⟨-, carries, -⟩ := expansion_facts trig small
    rw [show (0 : Word).toNat = 0 from rfl] at carries
    omega
  | settled _ _ ih =>
    rintro rfl
    exact ih (by decide)

theorem Renorm.length_le {low range low' range' : Word} {bs : List Byte} (h : Renorm low range bs low' range') :
    bs.length ≤ 3 := by
  obtain ⟨bs', low1, range1, loop, few⟩ := Renorm.exists_of_ne_zero (low := low) h.range_ne_zero
  obtain ⟨rfl, -, -⟩ := h.unique loop
  exact few

/-! ### The bounded loops -/

/-- A bounded loop that answers every test of the relation's loop with one round answers as the relation does. -/
theorem renormEncLoop_of_renorm {low range low' range' : Word} {bs : List Byte} (h : Renorm low range bs low' range')
    {n : Nat} (enough : bs.length < n) (s : State) :
    renormEncLoop n (setCoder low range s) = .ok (setCoder low' range' (outWrites bs s)) := by
  obtain ⟨n, rfl⟩ := Nat.exists_eq_add_of_le' (Nat.one_le_of_lt enough)
  induction h generalizing n s with
  | exit trig large =>
    rw [renormEncLoop, setCoder_low, setCoder_range, renormTest_none.mpr ⟨trig, large⟩]
    rfl
  | expand trig small _ ih =>
    obtain ⟨n, rfl⟩ := Nat.exists_eq_add_of_le' (Nat.one_le_of_lt (Nat.lt_of_succ_lt_succ enough))
    rw [renormEncLoop, setCoder_low, setCoder_range, renormTest_of_expand trig small]
    exact ih (outWrite _ s) n (Nat.lt_of_succ_lt_succ enough)
  | settled quiet _ ih =>
    obtain ⟨n, rfl⟩ := Nat.exists_eq_add_of_le' (Nat.one_le_of_lt (Nat.lt_of_succ_lt_succ enough))
    rw [renormEncLoop, setCoder_low, setCoder_range, renormTest_of_not_triggered quiet]
    exact ih (outWrite _ s) n (Nat.lt_of_succ_lt_succ enough)

/-- The decoder's loop reads a byte into CODE where the encoder's writes one. -/
theorem renormDecLoop_of_renorm {low range low' range' : Word} {bs : List Byte} (h : Renorm low range bs low' range')
    {n : Nat} (enough : bs.length < n) (s : State) :
    renormDecLoop n (setCoder low range s) = .ok (setCoder low' range' (shiftCodes bs.length s)) := by
  obtain ⟨n, rfl⟩ := Nat.exists_eq_add_of_le' (Nat.one_le_of_lt enough)
  induction h generalizing n s with
  | exit trig large =>
    rw [renormDecLoop, setCoder_low, setCoder_range, renormTest_none.mpr ⟨trig, large⟩]
    rfl
  | expand trig small _ ih =>
    obtain ⟨n, rfl⟩ := Nat.exists_eq_add_of_le' (Nat.one_le_of_lt (Nat.lt_of_succ_lt_succ enough))
    rw [renormDecLoop, setCoder_low, setCoder_range, renormTest_of_expand trig small, List.length_cons, shiftCodes_succ]
    exact ih (shiftCode s) n (Nat.lt_of_succ_lt_succ enough)
  | settled quiet _ ih =>
    obtain ⟨n, rfl⟩ := Nat.exists_eq_add_of_le' (Nat.one_le_of_lt (Nat.lt_of_succ_lt_succ enough))
    rw [renormDecLoop, setCoder_low, setCoder_range, renormTest_of_not_triggered quiet, List.length_cons,
      shiftCodes_succ]
    exact ih (shiftCode s) n (Nat.lt_of_succ_lt_succ enough)

/-- `RenormEnc` is the loop of R172. -/
theorem renormEnc_of_renorm {low range low' range' : Word} {bs : List Byte} (h : Renorm low range bs low' range')
    (s : State) : renormEnc (setCoder low range s) = .ok (setCoder low' range' (outWrites bs s)) :=
  renormEncLoop_of_renorm h (Nat.lt_succ_of_le h.length_le) s

/-- `RenormDec` is the loop of R172, reading where `RenormEnc` writes (R173). -/
theorem renormDec_of_renorm {low range low' range' : Word} {bs : List Byte} (h : Renorm low range bs low' range')
    (s : State) : renormDec (setCoder low range s) = .ok (setCoder low' range' (shiftCodes bs.length s)) :=
  renormDecLoop_of_renorm h (Nat.lt_succ_of_le h.length_le) s

/-- Settles O23: the loop of the relation ends within three rounds, both bounded loops follow it, and from its exit it
exits at once. -/
theorem renormalisationEndsWithinThree : Obligations.RenormalisationEndsWithinThree := by
  intro s nonzero
  obtain ⟨bs, low', range', loop, few⟩ := Renorm.exists_of_ne_zero (low := s.low) nonzero
  refine ⟨⟨bs, setCoder low' range' (outWrites bs s), renormEnc_of_renorm loop s, few, ?_, loop.range_large,
    loop.interval_le, renormEnc_of_renorm loop.exited _⟩, bs.length, setCoder low' range' (shiftCodes bs.length s),
    renormDec_of_renorm loop s, few, rfl, loop.range_large, loop.interval_le, renormDec_of_renorm loop.exited _⟩
  rw [setCoder_out, outWrites_state]

end Sys2Proof.Machine
end

section
/-! One coder step (R171, R179, R182) from an interval inside `2^32`, and the raw coder commands (R178, R183, R184). -/

namespace Sys2Proof.Machine

/-! ### Narrowing the interval -/

/-- The share `[lp, hp)` of an interval cut into `sc` parts of length `q`: its start and its length are exact, it is not
empty, and it ends where the interval does or before. -/
theorem narrowed {low : Word} {q lp hp sc : Nat} (proper : lp < hp) (within : hp ≤ sc) (cut : 1 ≤ q)
    (fits : q * sc < 2 ^ 32) (inside : low.toNat + q * sc ≤ 2 ^ 32) :
    (low + BitVec.ofNat 32 (lp * q)).toNat = low.toNat + lp * q ∧
    (BitVec.ofNat 32 (q * (hp - lp))).toNat = q * (hp - lp) ∧ BitVec.ofNat 32 (q * (hp - lp)) ≠ 0 ∧
    (low + BitVec.ofNat 32 (lp * q)).toNat + (BitVec.ofNat 32 (q * (hp - lp))).toNat ≤ 2 ^ 32 := by
  have share : lp * q + q * (hp - lp) = q * hp := by
    rw [Nat.mul_comm lp, ← Nat.mul_add, Nat.add_sub_cancel' proper.le]
  have upper : q * hp ≤ q * sc := Nat.mul_le_mul_left q within
  have positive : 1 ≤ q * (hp - lp) := Nat.mul_pos cut (Nat.sub_pos_of_lt proper)
  have start : (low + BitVec.ofNat 32 (lp * q)).toNat = low.toNat + lp * q := by
    rw [BitVec.toNat_add, BitVec.toNat_ofNat]
    omega
  have length : (BitVec.ofNat 32 (q * (hp - lp))).toNat = q * (hp - lp) := by
    rw [BitVec.toNat_ofNat, Nat.mod_eq_of_lt (by omega)]
  refine ⟨start, length, fun zero => ?_, by omega⟩
  rw [zero] at length
  exact absurd length.symm (Nat.pos_iff_ne_zero.mp positive)

/-- The parts of an interval cut into at most as many parts as it is long. -/
theorem parts_of_scale {range sc : Nat} (positive : 1 ≤ sc) (large : sc ≤ range) :
    1 ≤ range / sc ∧ range / sc * sc ≤ range :=
  ⟨Nat.div_pos large positive, Nat.div_mul_le_self range sc⟩

/-- The query value (R179) as a number. -/
theorem query_toNat {code low : Word} {q : Nat} (word : q < 2 ^ 32) :
    ((code - low) / BitVec.ofNat 32 q).toNat = (code - low).toNat / q := by
  rw [BitVec.toNat_udiv, BitVec.toNat_ofNat, Nat.mod_eq_of_lt word]

/-- Where CODE lies in the share `[lp, hp)`, the query value does (R186). -/
theorem query_in_share {code low : Word} {q lp hp : Nat} (cut : 1 ≤ q) (lower : low.toNat + lp * q ≤ code.toNat)
    (upper : code.toNat < low.toNat + hp * q) :
    lp ≤ (code - low).toNat / q ∧ (code - low).toNat / q < hp := by
  have distance : (code - low).toNat = code.toNat - low.toNat := by bv_omega
  rw [distance, Nat.le_div_iff_mul_le cut, Nat.div_lt_iff_lt_mul cut]
  omega

/-! ### The coder primitives -/

/-- An encoder step with a proper interval and a scale that RANGE covers (R171). -/
theorem encStep_spec {lp hp sc : Nat} {s : State} (proper : lp < hp) (within : hp ≤ sc) (covered : sc ≤ s.range.toNat)
    (inside : s.low.toNat + s.range.toNat ≤ 2 ^ 32) : ∃ (bs : List Byte) (low' range' : Word),
      Renorm (s.low + BitVec.ofNat 32 (lp * (s.range.toNat / sc)))
        (BitVec.ofNat 32 (s.range.toNat / sc * (hp - lp))) bs low' range' ∧
      low'.toNat + range'.toNat ≤ 2 ^ 32 ∧ encStep lp hp sc s = .ok (setCoder low' range' (outWrites bs s)) := by
  have word := s.range.isLt
  obtain ⟨cut, parts⟩ := parts_of_scale (by omega) covered
  obtain ⟨-, -, nonzero, inside'⟩ := narrowed (low := s.low) proper within cut (by omega) (by omega)
  obtain ⟨bs, low', range', loop, -⟩ := Renorm.exists_of_ne_zero
    (low := s.low + BitVec.ofNat 32 (lp * (s.range.toNat / sc))) nonzero
  refine ⟨bs, low', range', loop, loop.interval_le inside', ?_⟩
  rw [encStep, if_neg (Nat.pos_iff_ne_zero.mp cut), renormEnc_of_renorm loop]

/-- A coder step whose scale RANGE does not cover divides to 0 (R171, R287). -/
theorem encStep_of_lt {lp hp sc : Nat} {s : State} (short : s.range.toNat < sc) :
    encStep lp hp sc s = .error (.raise .range) := if_pos (Nat.div_eq_of_lt short)

/-- A query with a scale that RANGE covers (R179). -/
theorem decQuery_spec {sc : Nat} {s : State} (positive : 1 ≤ sc) (covered : sc ≤ s.range.toNat) : ∃ f : Word,
    decQuery sc s = .ok (f, { s with range := BitVec.ofNat 32 (s.range.toNat / sc) }) ∧
    (BitVec.ofNat 32 (s.range.toNat / sc)).toNat = s.range.toNat / sc ∧
    f.toNat = (s.code - s.low).toNat / (s.range.toNat / sc) := by
  have word : s.range.toNat / sc < 2 ^ 32 := (Nat.div_le_self ..).trans_lt s.range.isLt
  refine ⟨_, if_neg (Nat.pos_iff_ne_zero.mp (parts_of_scale positive covered).1), ?_, query_toNat word⟩
  rw [BitVec.toNat_ofNat, Nat.mod_eq_of_lt word]

theorem decQuery_of_lt {sc : Nat} {s : State} (short : s.range.toNat < sc) :
    decQuery sc s = .error (.raise .range) := if_pos (Nat.div_eq_of_lt short)

/-- A decoder update with a proper interval, where RANGE is already divided by the scale (R182). -/
theorem decUpdate_spec {lp hp sc : Nat} {s : State} (proper : lp < hp) (within : hp ≤ sc) (cut : 1 ≤ s.range.toNat)
    (fits : s.range.toNat * sc < 2 ^ 32) (inside : s.low.toNat + s.range.toNat * sc ≤ 2 ^ 32) :
    ∃ (bs : List Byte) (low' range' : Word),
      Renorm (s.low + BitVec.ofNat 32 (s.range.toNat * lp)) (BitVec.ofNat 32 (s.range.toNat * (hp - lp))) bs low' range' ∧
      low'.toNat + range'.toNat ≤ 2 ^ 32 ∧
      decUpdate lp hp s = .ok (setCoder low' range' (shiftCodes bs.length s)) := by
  obtain ⟨-, -, nonzero, inside'⟩ := narrowed (low := s.low) proper within cut fits inside
  rw [Nat.mul_comm lp] at inside'
  obtain ⟨bs, low', range', loop, -⟩ := Renorm.exists_of_ne_zero
    (low := s.low + BitVec.ofNat 32 (s.range.toNat * lp)) nonzero
  exact ⟨bs, low', range', loop, loop.interval_le inside', renormDec_of_renorm loop s⟩

/-- The state after a run of reads shifted into CODE. -/
theorem shiftCodes_eq (n : Nat) (s : State) : shiftCodes n s = { s with
    code := codeAfter s.code (inReads n s).1
    inptr := (inReads n s).2.inptr, pastend := (inReads n s).2.pastend } := by
  obtain ⟨past, reads⟩ := inReads_state n s
  rw [shiftCodes, reads]
  rfl

/-! ### The raw coder commands -/

theorem scaleLegal_iff (sc : Nat) : scaleLegal sc = true ↔ 1 ≤ sc ∧ sc ≤ 2 ^ 14 := by
  simp [scaleLegal, Config.probMax, Config.freqMaxBits]

theorem intervalLegal_iff (lp hp sc : Nat) : intervalLegal lp hp sc = true ↔ lp < hp ∧ hp ≤ sc := by
  simp [intervalLegal]

/-- The coder registers of a mode in use with no query pending (R41 item 1). -/
theorem CoderOk.settled {s : State} (ok : CoderOk s) (inUse : s.mode ≠ .idle) (noQuery : s.qpend = false) :
    2 ^ 14 ≤ s.range.toNat ∧ s.low.toNat + s.range.toNat ≤ 2 ^ 32 := ok.1 inUse noQuery

/-- An encoder owes no query. -/
theorem CoderOk.no_query {s : State} (ok : CoderOk s) (enc : s.mode = .enc) : s.qpend = false := by
  by_contra pending
  have dec := (ok.2 (Bool.eq_true_of_not_eq_false pending)).1
  simp [enc] at dec

theorem CoderOk.encoder {s : State} (ok : CoderOk s) (enc : s.mode = .enc) :
    2 ^ 14 ≤ s.range.toNat ∧ s.low.toNat + s.range.toNat ≤ 2 ^ 32 :=
  ok.settled (by simp [enc]) (ok.no_query enc)

/-- AC_ENC with a legal triple (R178). -/
theorem exec_acEnc {s : State} {u16 : BitVec 16} (enc : s.mode = .enc) (ok : CoderOk s)
    (proper : oprLow s < oprHigh s) (within : oprHigh s ≤ u16.toNat) (scale : u16.toNat ≤ 2 ^ 14) :
    ∃ (bs : List Byte) (low' range' : Word),
      Renorm (s.low + BitVec.ofNat 32 (oprLow s * (s.range.toNat / u16.toNat)))
        (BitVec.ofNat 32 (s.range.toNat / u16.toNat * (oprHigh s - oprLow s))) bs low' range' ∧
      exec (.acEnc u16) s = .next { s with
        low := low', range := range', out := s.out ++ bs
        outcnt := s.outcnt + BitVec.ofNat 32 bs.length, pc := s.pc + 1 } := by
  obtain ⟨large, inside⟩ := ok.encoder enc
  have inEnc : (s.mode == .enc) = true := beq_iff_eq.mpr enc
  have legal : (scaleLegal u16.toNat && intervalLegal (oprLow s) (oprHigh s) u16.toNat) = true := by
    rw [Bool.and_eq_true, scaleLegal_iff, intervalLegal_iff]
    omega
  obtain ⟨bs, low', range', loop, -, step⟩ := encStep_spec proper within (scale.trans large) inside
  refine ⟨bs, low', range', loop, ?_⟩
  rw [exec, execAcEnc, require_true inEnc, require_true legal, step, complete_ok, outWrites_state]
  rfl

/-- Settles O22: `exec_acEnc`. -/
theorem acEncCodesTheTriple : Obligations.AcEncCodesTheTriple :=
  fun _ _ enc ok proper within scale => exec_acEnc enc ok proper within scale

/-- AC_DFREQ with a legal scale (R183). -/
theorem exec_acDfreq {s : State} {u16 : BitVec 16} (dec : s.mode = .dec) (noQuery : s.qpend = false) (ok : CoderOk s)
    (positive : 1 ≤ u16.toNat) (scale : u16.toNat ≤ 2 ^ 14) : ∃ f r : Word,
    exec (.acDfreq u16) s = .next { s with
      range := r, qpend := true, qscale := u16, res := s.res ++ [f], pc := s.pc + 1 } ∧
    r.toNat = s.range.toNat / u16.toNat ∧ f.toNat = (s.code - s.low).toNat / r.toNat := by
  obtain ⟨large, -⟩ := ok.settled (by simp [dec]) noQuery
  have inDec : (s.mode == .dec) = true := beq_iff_eq.mpr dec
  have sequence : (!s.qpend) = true := by simp [noQuery]
  have legal : scaleLegal u16.toNat = true := (scaleLegal_iff _).mpr ⟨positive, scale⟩
  obtain ⟨f, query, divided, value⟩ := decQuery_spec positive (scale.trans large)
  refine ⟨f, _, ?_, divided, by rw [divided]; exact value⟩
  rw [exec, execAcDfreq, require_true inDec, require_true sequence, require_true legal, query]
  rfl

/-- Settles O25: `exec_acDfreq`. -/
theorem acDfreqPushesTheQuery : Obligations.AcDfreqPushesTheQuery :=
  fun _ _ dec noQuery ok positive scale => exec_acDfreq dec noQuery ok positive scale

/-- AC_DUPD with an interval inside the scale of the pending query (R184). -/
theorem exec_acDupd {s : State} (pending : s.qpend = true) (ok : CoderOk s) (proper : oprLow s < oprHigh s)
    (within : oprHigh s ≤ s.qscale.toNat) : ∃ (bs bytes : List Byte) (low' range' : Word) (t : State),
      Renorm (s.low + BitVec.ofNat 32 (s.range.toNat * oprLow s))
        (BitVec.ofNat 32 (s.range.toNat * (oprHigh s - oprLow s))) bs low' range' ∧
      inReads bs.length s = (bytes, t) ∧
      exec .acDupd s = .next { t with
        low := low', range := range', code := codeAfter s.code bytes, qpend := false, pc := s.pc + 1 } := by
  obtain ⟨dec, -, cut, fits, inside⟩ := ok.2 pending
  have inDec : (s.mode == .dec) = true := beq_iff_eq.mpr dec
  have legal : intervalLegal (oprLow s) (oprHigh s) s.qscale.toNat = true := (intervalLegal_iff _ _ _).mpr ⟨proper, within⟩
  obtain ⟨bs, low', range', loop, -, update⟩ := decUpdate_spec proper within cut fits inside
  refine ⟨bs, _, low', range', _, loop, rfl, ?_⟩
  rw [exec, execAcDupd, require_true inDec, require_true pending, require_true legal, update]
  rfl

/-- Settles O26: `exec_acDupd`. -/
theorem acDupdCompletesTheQuery : Obligations.AcDupdCompletesTheQuery :=
  fun _ pending ok proper within => exec_acDupd pending ok proper within

/-- A query keeps what `CoderOk` says: the divided RANGE times the scale is at most the RANGE before it. -/
theorem coderOk_of_query {s t : State} (large : 2 ^ 14 ≤ s.range.toNat)
    (inside : s.low.toNat + s.range.toNat ≤ 2 ^ 32) (dec : t.mode = .dec) (pending : t.qpend = true)
    (low : t.low = s.low) (positive : 1 ≤ t.qscale.toNat) (scale : t.qscale.toNat ≤ 2 ^ 14)
    (divided : t.range.toNat = s.range.toNat / t.qscale.toNat) : CoderOk t := by
  have word := s.range.isLt
  obtain ⟨cut, parts⟩ := parts_of_scale positive (scale.trans large)
  refine ⟨fun _ noQuery => by simp [pending] at noQuery, fun _ => ⟨dec, scale, ?_⟩⟩
  rw [divided, low]
  omega

/-- Settles O28: the divided RANGE of AC_DFREQ is the one of the encoder's step, so that both loops start from the same
interval, and the loop is a function of it. -/
theorem decoderTracksEncoder : Obligations.DecoderTracksEncoder := by
  intro e d u16 enc dec noQuery okE okD sameLow sameRange sameOpr proper within scale
  have lows : oprLow d = oprLow e := by rw [oprLow, oprLow, sameOpr]
  have highs : oprHigh d = oprHigh e := by rw [oprHigh, oprHigh, sameOpr]
  obtain ⟨large, inside⟩ := okD.settled (by simp [dec]) noQuery
  have positive : 1 ≤ u16.toNat := by omega
  obtain ⟨bsE, lowE, rangeE, loopE, codes⟩ := exec_acEnc enc okE proper within scale
  obtain ⟨f, r, queries, divided, value⟩ := exec_acDfreq dec noQuery okD positive scale
  obtain ⟨bs, bytes, low', range', t, loop, -, updates⟩ :=
    exec_acDupd (s := { d with range := r, qpend := true, qscale := u16, res := d.res ++ [f], pc := d.pc + 1 }) rfl
      (coderOk_of_query large inside dec rfl rfl positive scale divided)
      (show oprLow d < oprHigh d by omega) (show oprHigh d ≤ u16.toNat by omega)
  change Renorm (d.low + BitVec.ofNat 32 (r.toNat * oprLow d))
    (BitVec.ofNat 32 (r.toNat * (oprHigh d - oprLow d))) bs low' range' at loop
  rw [divided, lows, highs, ← sameLow, ← sameRange, Nat.mul_comm _ (oprLow e)] at loop
  obtain ⟨-, rfl, rfl⟩ := loopE.unique loop
  refine ⟨_, _, _, f, codes, queries, updates, rfl, rfl, rfl, fun lower upper => ?_⟩
  rw [value, divided]
  exact query_in_share (parts_of_scale positive (scale.trans large)).1 lower upper

end Sys2Proof.Machine
end

section
/-! The table procedures of the PPM model (R222 to R225, R227), count by count, and what they do to the sum of all
counts and to the number of symbols held. -/

namespace Sys2Proof.Machine

/-! ### Lists of counts -/

theorem sumCounts_set {l : List Word} {i : Nat} (h : i < l.length) (v : Word) :
    sumCounts (l.set i v) + l[i].toNat = sumCounts l + v.toNat := by
  induction l generalizing i with
  | nil => exact absurd h (Nat.not_lt_zero i)
  | cons x l ih =>
    cases i with
    | zero =>
      simp only [List.set_cons_zero, List.getElem_cons_zero, sumCounts]
      omega
    | succ i =>
      have rest := ih (Nat.lt_of_succ_lt_succ h)
      simp only [List.set_cons_succ, List.getElem_cons_succ, sumCounts]
      omega

/-- Halving rounds up each count, so that the sum of the halves is at least half the sum and exceeds it by at most half
the number of counts (R225). -/
theorem sumCounts_halfUp (l : List Word) :
    sumCounts l ≤ 2 * sumCounts (l.map halfUp) ∧ 2 * sumCounts (l.map halfUp) ≤ sumCounts l + l.length := by
  induction l with
  | nil => exact ⟨le_rfl, le_rfl⟩
  | cons x l ih =>
    have half := halfUp_toNat x
    simp only [List.map_cons, sumCounts, List.length_cons]
    omega

theorem length_le_sumCounts {l : List Word} (h : ∀ f ∈ l, 1 ≤ f.toNat) : l.length ≤ sumCounts l := by
  induction l with
  | nil => exact le_rfl
  | cons x l ih =>
    obtain ⟨first, rest⟩ := List.forall_mem_cons.mp h
    have := ih rest
    simp only [List.length_cons, sumCounts]
    omega

/-! ### One count set -/

theorem Table.total_setCount (t : Table) {i : Nat} (h : i < 257) (v : Word) :
    (t.setCount i v).total + (t.count i).toNat = t.total + v.toNat := by
  rw [Table.count_eq t h, Table.total, Table.total, Table.setCount, Vector.toList_setIfInBounds]
  exact sumCounts_set _ v

/-- A symbol's count set: the symbols held lose it or gain it. -/
theorem heldSymbols_setCount (t : Table) {i : Nat} (h : i < 256) (v : Word) :
    heldSymbols (t.setCount i v) + (if t.count i ≠ 0 then 1 else 0) = heldSymbols t + (if v ≠ 0 then 1 else 0) := by
  have inList : i < (t.freq.toList.take 256).length := by simp [h]
  have here : (t.freq.toList.take 256)[i] = t.count i := by
    rw [List.getElem_take, ← Table.count_eq t (by omega)]
  rw [heldSymbols, heldSymbols, Table.setCount, Vector.toList_setIfInBounds, List.take_set, ← List.countP_eq_length_filter,
    ← List.countP_eq_length_filter, List.countP_set inList, here]
  by_cases held : t.count i = 0
  · simp [held]
  · have some : 0 < (t.freq.toList.take 256).countP fun f => decide (f ≠ 0) :=
      List.countP_pos_iff.mpr ⟨_, List.getElem_mem inList, by rw [here]; simpa using held⟩
    simp only [held, decide_eq_true_eq, ne_eq, not_false_eq_true, if_true]
    simp only [ne_eq] at some
    omega

/-- The escape count is no symbol's. -/
@[simp] theorem heldSymbols_setCount_escape (t : Table) (v : Word) : heldSymbols (t.setCount 256 v) = heldSymbols t := by
  rw [heldSymbols, heldSymbols, Table.setCount, Vector.toList_setIfInBounds, List.take_set_of_le le_rfl]

theorem count_le_total (t : Table) {i : Nat} (h : i < 257) : (t.count i).toNat ≤ t.total :=
  (Nat.le_add_left _ _).trans (t.cumLo_add_count_le h)

/-! ### UPDATE -/

theorem word_add_toNat {w : Word} {k : Nat} (fits : w.toNat + k < 2 ^ 32) : (w + BitVec.ofNat 32 k).toNat = w.toNat + k := by
  rw [BitVec.toNat_add, BitVec.toNat_ofNat]
  omega

theorem Table.bump_count (t : Table) (s i : Nat) :
    (t.bump s).count i = if s = i ∧ i < 257 then t.count s + 2 else t.count i := Table.count_setCount ..

@[simp] theorem Table.bump_sum (t : Table) (s : Nat) : (t.bump s).sum = t.sum + 2 := rfl

theorem Table.bump_total (t : Table) {s : Nat} (h : s < 257) (fits : (t.count s).toNat + 2 < 2 ^ 32) :
    (t.bump s).total = t.total + 2 := by
  have set := t.total_setCount h (t.count s + 2)
  have value : (t.count s + 2).toNat = (t.count s).toNat + 2 := word_add_toNat fits
  have : (t.bump s).total = (t.setCount s (t.count s + 2)).total := rfl
  omega

/-- UPDATE of a symbol held leaves the symbols held as they are. -/
theorem Table.bump_held (t : Table) {s : Nat} (h : s < 256) (held : t.count s ≠ 0)
    (fits : (t.count s).toNat + 2 < 2 ^ 32) : heldSymbols (t.bump s) = heldSymbols t := by
  have set := heldSymbols_setCount t h (t.count s + 2)
  have value : (t.count s + 2).toNat = (t.count s).toNat + 2 := word_add_toNat fits
  have nonzero : t.count s + 2 ≠ 0 := fun zero => by rw [zero] at value; exact absurd value (by simp)
  rw [if_pos held, if_pos nonzero] at set
  exact Nat.add_right_cancel set

theorem Table.rescale_toList (t : Table) : t.rescale.freq.toList = t.freq.toList.map halfUp := by
  simp [Table.rescale, Vector.toList]

theorem Table.rescale_count (t : Table) {i : Nat} (h : i < 257) : (t.rescale.count i).toNat = ((t.count i).toNat + 1) / 2 := by
  rw [Table.count_eq _ h, Table.count_eq _ h, ← halfUp_toNat]
  simp only [Table.rescale_toList, List.getElem_map]

theorem Table.rescale_total (t : Table) : t.total ≤ 2 * t.rescale.total ∧ 2 * t.rescale.total ≤ t.total + 257 := by
  have halves := sumCounts_halfUp t.freq.toList
  rwa [← Table.rescale_toList, Vector.length_toList] at halves

theorem Table.rescale_sum (t : Table) : t.rescale.sum.toNat = t.rescale.total % 2 ^ 32 := BitVec.toNat_ofNat ..

/-- A rescale loses no symbol: half of a count rounded up is 0 only for 0. -/
theorem Table.rescale_held (t : Table) : heldSymbols t.rescale = heldSymbols t := by
  have kept (f : Word) : decide (halfUp f ≠ 0) = decide (f ≠ 0) := by
    have half := halfUp_toNat f
    rw [decide_eq_decide, not_iff_not, ← BitVec.toNat_inj, ← BitVec.toNat_inj, half, show (0 : Word).toNat = 0 from rfl]
    omega
  rw [heldSymbols, heldSymbols, Table.rescale_toList, ← List.map_take, ← List.countP_eq_length_filter,
    ← List.countP_eq_length_filter, List.countP_map]
  exact List.countP_congr fun f _ => by simp only [Function.comp_apply, kept]

/-- The test of UPDATE where nothing wraps (R224). -/
theorem Table.mustRescale_bump_iff (t : Table) {s : Nat} (h : s < 257) (count : (t.count s).toNat + 2 < 2 ^ 32)
    (sum : t.sum.toNat + 2 < 2 ^ 32) (freqmax : Word) :
    (t.bump s).mustRescale s freqmax = true ↔
      freqmax.toNat ≤ (t.count s).toNat + 2 ∨ 2 ^ 14 ≤ t.sum.toNat + 2 := by
  have bumped : (t.bump s).count s = t.count s + 2 := by rw [Table.bump_count, if_pos ⟨rfl, h⟩]
  have countValue : (t.count s + 2).toNat = (t.count s).toNat + 2 := word_add_toNat count
  have sumValue : (t.sum + 2).toNat = t.sum.toNat + 2 := word_add_toNat sum
  rw [Table.mustRescale, bumped, Table.bump_sum, countValue, sumValue, Bool.or_eq_true, decide_eq_true_iff,
    decide_eq_true_iff]

theorem freqMaxGrowth_toNat (s : State) : (freqMaxGrowth s).toNat = (256 - paletteSize s) / 2 := by
  rw [freqMaxGrowth, BitVec.toNat_ofNat]
  omega

theorem bump_count_toNat (t : Table) {s : Nat} (count : (t.count s).toNat + 2 < 2 ^ 32) {i : Nat} (hi : i ≤ 256) :
    ((t.bump s).count i).toNat = (t.count i).toNat + (if i = s then 2 else 0) := by
  rw [Table.bump_count]
  by_cases here : s = i
  · subst here
    rw [if_pos ⟨rfl, Nat.lt_succ_of_le hi⟩, if_pos rfl]
    exact word_add_toNat count
  · rw [if_neg fun h => here h.1, if_neg (Ne.symm here), Nat.add_zero]

/-- Settles O29: the two branches of UPDATE, where `mustRescale_bump_iff` says which is taken. -/
theorem updateAddsTwoOrHalves : Obligations.UpdateAddsTwoOrHalves := by
  intro st t s hs count sum
  have test := t.mustRescale_bump_iff (Nat.lt_succ_of_le hs) count sum st.freqmax
  split
  · next reached =>
    rw [Table.updated, freqmaxUpdated, if_pos (test.mpr reached), if_pos (test.mpr reached)]
    refine ⟨by rw [BitVec.toNat_add, freqMaxGrowth_toNat], fun i hi => ?_, Table.rescale_sum _⟩
    rw [Table.rescale_count _ (Nat.lt_succ_of_le hi), bump_count_toNat t count hi]
  · next notReached =>
    have keep := fun must => notReached (test.mp must)
    rw [Table.updated, freqmaxUpdated, if_neg keep, if_neg keep]
    exact ⟨rfl, fun i hi => bump_count_toNat t count hi, word_add_toNat sum⟩

/-! ### NoteNovel and the escape increment -/

theorem Table.escaped_count (t : Table) (i : Nat) :
    t.escaped.count i = if 256 = i ∧ i < 257 then t.count 256 + 1 else t.count i := Table.count_setCount ..

/-- The first visit of NoteNovel (R223). -/
def Table.visited (t : Table) : Table := if t.sum = 0 then { t.setCount escape 1 with sum := 1 } else t

theorem Table.visited_of_zero {t : Table} (h : t.sum = 0) : t.visited = { t.setCount 256 1 with sum := 1 } := if_pos h

theorem Table.visited_of_ne_zero {t : Table} (h : t.sum ≠ 0) : t.visited = t := if_neg h

theorem Table.novel_count (t : Table) (s i : Nat) :
    (t.novel s).count i = if s = i ∧ i < 257 then 1 else t.visited.count i := Table.count_setCount ..

theorem Table.novel_sum (t : Table) (s : Nat) : (t.novel s).sum = t.visited.sum + 1 := rfl

theorem Table.visited_count (t : Table) (i : Nat) :
    t.visited.count i = if i = 256 ∧ t.sum = 0 then 1 else t.count i := by
  by_cases zero : t.sum = 0
  · rw [Table.visited_of_zero zero]
    have set : ({ t.setCount 256 1 with sum := 1 } : Table).count i = _ := Table.count_setCount t 256 i 1
    rw [set]
    by_cases esc : i = 256
    · simp [esc, zero]
    · rw [if_neg fun h => esc h.1.symm, if_neg fun h => esc h.1]
  · rw [Table.visited_of_ne_zero zero, if_neg fun h => zero h.2]

/-- Settles O30: each operation sets one count after another. -/
theorem novelAssignsOneAndEscapeAddsOne : Obligations.NovelAssignsOneAndEscapeAddsOne := by
  intro t s hs
  refine ⟨?_, fun i hi => ?_, rfl, fun i hi => ?_⟩
  · rw [Table.novel_sum]
    by_cases zero : t.sum = 0
    · rw [Table.visited_of_zero zero, if_pos zero]
      rfl
    · rw [Table.visited_of_ne_zero zero, if_neg zero]
  · rw [Table.novel_count, Table.visited_count]
    by_cases here : s = i
    · rw [if_pos ⟨here, Nat.lt_succ_of_le hi⟩, if_pos here.symm]
    · rw [if_neg fun h => here h.1, if_neg (Ne.symm here)]
  · rw [Table.escaped_count]
    by_cases esc : i = 256
    · subst esc
      rw [if_pos ⟨rfl, by decide⟩, if_pos rfl]
    · rw [if_neg fun h => esc h.1.symm, if_neg esc]

end Sys2Proof.Machine
end

section
/-! What the table procedures keep: the order-0 table's bounds (R232 item 1), a sum that covers its counts (item 2), and
an encoder's exact sum (items 3 and 4). -/

namespace Sys2Proof.Machine

/-- UPDATE either rescales the bumped table, or leaves it bumped with a sum below PROB_MAX. -/
theorem Table.updated_cases (t : Table) (s : Nat) (freqmax : Word) :
    t.updated s freqmax = (t.bump s).rescale ∨
    (t.updated s freqmax = t.bump s ∧ (t.bump s).sum.toNat < 2 ^ 14) := by
  unfold Table.updated
  by_cases must : (t.bump s).mustRescale s freqmax = true
  · exact .inl (if_pos must)
  · refine .inr ⟨if_neg must, ?_⟩
    simp only [Table.mustRescale, Bool.or_eq_true, decide_eq_true_iff, not_or, Nat.not_le] at must
    exact must.2

/-! ### The order-0 table -/

/-- What `Order0Ok` says of the table itself. -/
def Order0Table (t : Table) : Prop :=
  (∀ i, i ≤ 256 → 1 ≤ (t.count i).toNat) ∧ t.count 256 = 1 ∧ t.sum.toNat = t.total ∧ 257 ≤ t.sum.toNat ∧
    t.sum.toNat ≤ 2 ^ 14 - 1

theorem order0Ok_iff (s : State) : Order0Ok s ↔ Order0Table s.order0 := Iff.rfl

/-- 257 counts that are not 0 add up to at least 257. -/
theorem total_ge_of_counts {t : Table} (h : ∀ i, i ≤ 256 → 1 ≤ (t.count i).toNat) : 257 ≤ t.total := by
  rw [← Vector.length_toList (xs := t.freq)]
  refine length_le_sumCounts fun f hf => ?_
  obtain ⟨i, hi, rfl⟩ := List.getElem_of_mem hf
  have small : i < 257 := by simpa using hi
  rw [← Table.count_eq t small]
  exact h i (Nat.le_of_lt_succ small)

theorem sumCounts_replicate_one (n : Nat) : sumCounts (List.replicate n 1) = n := by
  induction n with
  | zero => rfl
  | succ n ih =>
    rw [List.replicate_succ, sumCounts, ih, Nat.add_comm]
    rfl

theorem order0Table_ones : Order0Table Table.ones := by
  have total : Table.ones.total = 257 := by
    rw [Table.total, Table.ones, Vector.toList_replicate, sumCounts_replicate_one]
  refine ⟨fun i hi => ?_, Table.ones_count le_rfl, total.symm, le_rfl, by decide⟩
  rw [Table.ones_count hi]
  exact le_rfl

/-- UPDATE of a symbol keeps the order-0 table within its bounds, whatever the threshold. -/
theorem Order0Table.updated {t : Table} (h : Order0Table t) {s : Nat} (sym : s < 256) (freqmax : Word) :
    Order0Table (t.updated s freqmax) := by
  obtain ⟨counts, esc, exact_, large, small⟩ := h
  have countS : (t.count s).toNat ≤ t.total := count_le_total t (by omega)
  have fits : (t.count s).toNat + 2 < 2 ^ 32 := by omega
  have sum : (t.bump s).sum.toNat = t.sum.toNat + 2 := word_add_toNat (k := 2) (by omega)
  have total := t.bump_total (by omega : s < 257) fits
  have bumped (i : Nat) (hi : i ≤ 256) : 1 ≤ ((t.bump s).count i).toNat := by
    rw [bump_count_toNat t fits hi]
    have := counts i hi
    omega
  have escBumped : (t.bump s).count 256 = 1 := by
    rw [Table.bump_count, if_neg (by omega), esc]
  rcases t.updated_cases s freqmax with rescaled | ⟨kept, below⟩
  · rw [rescaled]
    have halves := (t.bump s).rescale_total
    have sumRescaled := (t.bump s).rescale_sum
    have rescaledCounts (i : Nat) (hi : i ≤ 256) : 1 ≤ ((t.bump s).rescale.count i).toNat := by
      rw [Table.rescale_count _ (Nat.lt_succ_of_le hi)]
      have := bumped i hi
      omega
    have atLeast := total_ge_of_counts rescaledCounts
    refine ⟨rescaledCounts, BitVec.eq_of_toNat_eq ?_, by omega, by omega, by omega⟩
    rw [Table.rescale_count _ (by decide), escBumped]
    rfl
  · rw [kept]
    exact ⟨bumped, escBumped, by omega, by omega, by omega⟩

/-! ### Tables whose sum covers their counts -/

/-- UPDATE of a symbol keeps a sound table sound, if its sum does not wrap. -/
theorem TableSound.updated {t : Table} (h : TableSound t) {s : Nat} (sym : s < 256) (nonempty : t.sum ≠ 0)
    (far : t.sum.toNat + 2 < 2 ^ 32) (freqmax : Word) : TableSound (t.updated s freqmax) := by
  obtain ⟨covered, esc⟩ := h
  have escT := esc nonempty
  have countS : (t.count s).toNat ≤ t.total := count_le_total t (by omega)
  have fits : (t.count s).toNat + 2 < 2 ^ 32 := by omega
  have sum : (t.bump s).sum.toNat = t.sum.toNat + 2 := word_add_toNat far
  have total := t.bump_total (by omega : s < 257) fits
  have escBumped : (t.bump s).count 256 = t.count 256 := by rw [Table.bump_count, if_neg (by omega)]
  rcases t.updated_cases s freqmax with rescaled | ⟨kept, -⟩
  · rw [rescaled]
    have halves := (t.bump s).rescale_total
    have sumRescaled := (t.bump s).rescale_sum
    refine ⟨by omega, fun _ => ?_⟩
    rw [Table.rescale_count _ (by decide), escBumped]
    omega
  · rw [kept]
    exact ⟨by omega, fun _ => by rw [escBumped]; exact escT⟩

theorem Table.escaped_total (t : Table) (fits : (t.count 256).toNat + 1 < 2 ^ 32) : t.escaped.total = t.total + 1 := by
  have set := t.total_setCount (i := 256) (by decide) (t.count 256 + 1)
  have value : (t.count 256 + 1).toNat = (t.count 256).toNat + 1 := word_add_toNat fits
  have : t.escaped.total = (t.setCount 256 (t.count 256 + 1)).total := rfl
  omega

/-- The escape increment keeps a sound table sound, if its sum does not wrap. -/
theorem TableSound.escaped {t : Table} (h : TableSound t) (far : t.sum.toNat + 1 < 2 ^ 32) : TableSound t.escaped := by
  have countEsc := count_le_total t (i := 256) (by decide)
  have total := t.escaped_total (by have := h.1; omega)
  have sum : t.escaped.sum.toNat = t.sum.toNat + 1 := word_add_toNat far
  have value : (t.count 256 + 1).toNat = (t.count 256).toNat + 1 := word_add_toNat (k := 1) (by have := h.1; omega)
  refine ⟨by have := h.1; omega, fun _ => ?_⟩
  rw [Table.escaped_count, if_pos ⟨rfl, by decide⟩, value]
  exact Nat.succ_pos _

/-- A table whose sum covers its counts has none where the sum is 0. -/
theorem counts_zero_of_sum_zero {t : Table} (covered : t.total ≤ t.sum.toNat) (empty : t.sum = 0) {i : Nat} (h : i < 257) :
    t.count i = 0 := by
  have none : (t.count i).toNat ≤ 0 := by
    have := count_le_total t h
    rw [empty] at covered
    exact this.trans covered
  exact BitVec.eq_of_toNat_eq (Nat.le_zero.mp none)

/-- The first visit of a table without counts gives it one escape. -/
theorem Table.visited_of_empty {t : Table} (covered : t.total ≤ t.sum.toNat) (empty : t.sum = 0) :
    t.visited.sum.toNat = 1 ∧ t.visited.total = 1 ∧ (t.visited.count 256).toNat = 1 := by
  have set := t.total_setCount (i := 256) (by decide) 1
  rw [counts_zero_of_sum_zero covered empty (i := 256) (by decide)] at set
  have total : t.visited.total = (t.setCount 256 1).total := by rw [Table.visited_of_zero empty]; rfl
  have zero : (0 : Word).toNat = 0 := rfl
  have one : (1 : Word).toNat = 1 := rfl
  rw [empty] at covered
  refine ⟨by rw [Table.visited_of_zero empty]; rfl, by omega, ?_⟩
  rw [Table.visited_count, if_pos ⟨rfl, empty⟩]
  rfl

/-- After a first visit a sound table is sound and not empty. -/
theorem TableSound.visited {t : Table} (h : TableSound t) : TableSound t.visited ∧ t.visited.sum ≠ 0 ∧
    t.visited.sum.toNat ≤ max 1 t.sum.toNat := by
  by_cases empty : t.sum = 0
  · obtain ⟨sum, total, esc⟩ := Table.visited_of_empty h.1 empty
    refine ⟨⟨by omega, fun _ => by omega⟩, fun zero => ?_, by omega⟩
    rw [zero] at sum
    exact absurd sum (by decide)
  · rw [Table.visited_of_ne_zero empty]
    exact ⟨h, empty, le_max_right ..⟩

/-- NoteNovel keeps a sound table sound, if its sum does not wrap: the count it assigns grows by at most 1. -/
theorem TableSound.novel {t : Table} (h : TableSound t) {s : Nat} (sym : s < 256) (far : t.sum.toNat + 1 < 2 ^ 32) :
    TableSound (t.novel s) := by
  obtain ⟨⟨covered, esc⟩, nonempty, bound⟩ := h.visited
  have set := t.visited.total_setCount (by omega : s < 257) 1
  have total : (t.novel s).total = (t.visited.setCount s 1).total := rfl
  have one : (1 : Word).toNat = 1 := rfl
  have sum : (t.novel s).sum.toNat = t.visited.sum.toNat + 1 := word_add_toNat (w := t.visited.sum) (k := 1) (by omega)
  refine ⟨by omega, fun _ => ?_⟩
  rw [Table.novel_count, if_neg (by omega)]
  exact esc nonempty

/-! ### An encoder's tables -/

theorem heldSymbols_le (t : Table) : heldSymbols t ≤ 256 := by
  refine (List.length_filter_le ..).trans ?_
  rw [List.length_take]
  exact min_le_left ..

theorem TableExact.sound {t : Table} (h : TableExact t) : TableSound t := ⟨h.1.ge, fun nonempty => (h.2 nonempty).1⟩

/-- No table holds more than 256 symbols, which bounds its sum (R232 items 3 and 4). -/
theorem TableExact.sum_le {t : Table} (h : TableExact t) : t.sum.toNat ≤ 16893 := by
  have held := heldSymbols_le t
  by_cases empty : t.sum = 0
  · rw [empty]
    exact Nat.zero_le _
  · obtain ⟨-, -, grown⟩ := h.2 empty
    omega

/-- UPDATE of a symbol that the table holds keeps the sum exact and the bound of R232 item 3: a sum of PROB_MAX or more
is halved. -/
theorem TableExact.updated {t : Table} (h : TableExact t) {s : Nat} (sym : s < 256) (nonempty : t.sum ≠ 0)
    (held : t.count s ≠ 0) (freqmax : Word) : TableExact (t.updated s freqmax) := by
  have bound := h.sum_le
  obtain ⟨exact_, more⟩ := h
  obtain ⟨esc, some, -⟩ := more nonempty
  have countS : (t.count s).toNat ≤ t.total := count_le_total t (by omega)
  have fits : (t.count s).toNat + 2 < 2 ^ 32 := by omega
  have sum : (t.bump s).sum.toNat = t.sum.toNat + 2 := word_add_toNat (k := 2) (by omega)
  have total := t.bump_total (by omega : s < 257) fits
  have heldBumped := t.bump_held sym held fits
  have escBumped : (t.bump s).count 256 = t.count 256 := by rw [Table.bump_count, if_neg (by omega)]
  rcases t.updated_cases s freqmax with rescaled | ⟨kept, below⟩
  · rw [rescaled]
    have halves := (t.bump s).rescale_total
    have sumRescaled := (t.bump s).rescale_sum
    have heldRescaled := (t.bump s).rescale_held
    refine ⟨by omega, fun _ => ⟨?_, by omega, by omega⟩⟩
    rw [Table.rescale_count _ (by decide), escBumped]
    omega
  · rw [kept]
    exact ⟨by omega, fun _ => ⟨by rw [escBumped]; exact esc, by omega, by omega⟩⟩

/-- A symbol that is new to the table is one more count and one more symbol held. -/
theorem Table.novel_of_new {t : Table} {s : Nat} (sym : s < 256) (new : t.visited.count s = 0) :
    (t.novel s).total = t.visited.total + 1 ∧ heldSymbols (t.novel s) = heldSymbols t.visited + 1 ∧
      (t.novel s).count 256 = t.visited.count 256 := by
  have set := t.visited.total_setCount (by omega : s < 257) 1
  have held := heldSymbols_setCount t.visited sym 1
  rw [new] at set held
  exact ⟨set, held, by rw [Table.novel_count, if_neg (by omega)]⟩

/-- The first symbol of a table. -/
theorem TableExact.novel_of_empty {t : Table} (h : TableExact t) {s : Nat} (sym : s < 256) (empty : t.sum = 0) :
    TableExact (t.novel s) := by
  have none := counts_zero_of_sum_zero h.1.ge empty (by omega : s < 257)
  have new : t.visited.count s = 0 := by rw [Table.visited_count, if_neg (by omega), none]
  obtain ⟨total, held, esc⟩ := Table.novel_of_new sym new
  obtain ⟨sumVisited, totalVisited, escVisited⟩ := Table.visited_of_empty h.1.ge empty
  have sum : (t.novel s).sum.toNat = t.visited.sum.toNat + 1 := word_add_toNat (w := t.visited.sum) (k := 1) (by omega)
  exact ⟨by omega, fun _ => ⟨by rw [esc]; omega, by omega, by omega⟩⟩

/-- A novel symbol after the escape: both add 1 to the sum, and one more symbol is held (R232 item 3). -/
theorem TableExact.escaped_novel {t : Table} (h : TableExact t) {s : Nat} (sym : s < 256) (nonempty : t.sum ≠ 0)
    (novel : t.count s = 0) : TableExact (t.escaped.novel s) := by
  have bound := h.sum_le
  obtain ⟨exact_, more⟩ := h
  obtain ⟨esc, some, grown⟩ := more nonempty
  have countEsc := count_le_total t (i := 256) (by decide)
  have totalEscaped := t.escaped_total (by omega)
  have sumEscaped : t.escaped.sum.toNat = t.sum.toNat + 1 := word_add_toNat (k := 1) (by omega)
  have heldEscaped : heldSymbols t.escaped = heldSymbols t := heldSymbols_setCount_escape t (t.count 256 + 1)
  have escEscaped : (t.escaped.count 256).toNat = (t.count 256).toNat + 1 := by
    rw [Table.escaped_count, if_pos ⟨rfl, by decide⟩]
    exact word_add_toNat (k := 1) (by omega)
  have visited : t.escaped.visited = t.escaped := Table.visited_of_ne_zero fun zero => by
    rw [zero] at sumEscaped
    exact absurd sumEscaped (by simp)
  have new : t.escaped.visited.count s = 0 := by rw [visited, Table.escaped_count, if_neg (by omega), novel]
  obtain ⟨total, held, escNovel⟩ := Table.novel_of_new sym new
  have sum : (t.escaped.novel s).sum.toNat = t.escaped.visited.sum.toNat + 1 := by
    rw [Table.novel_sum, visited]
    exact word_add_toNat (w := t.escaped.sum) (k := 1) (by omega)
  rw [visited] at total held escNovel sum
  exact ⟨by omega, fun _ => ⟨by rw [escNovel]; omega, by omega, by omega⟩⟩

end Sys2Proof.Machine
end

section
/-! What coding a symbol does to the model (R221, R223, R224, R227, R228), apart from the coder: one function for a symbol
that the context holds, one for a symbol that it does not. The encoder and the decoder share both. -/

namespace Sys2Proof.Machine

/-! ### The model after a symbol -/

/-- The model after a symbol its context holds: the context is UPDATEd. -/
def hitModel (sym : Byte) (s : State) : State := pushCtx sym (updateTable (ctxIndex s) sym s)

/-- The context after the escape: counted in a non-empty context, nothing in an empty one. -/
def escapedContext (s : State) : State :=
  if (readTable (ctxIndex s) s).sum = 0 then s else escapeTable (ctxIndex s) s

/-- NoteNovel of the symbol in context `c`, UPDATE of the order-0 table, and the shift of CTXID. -/
def noteSymbol (c : BitVec 8) (sym : Byte) (s : State) : State :=
  pushCtx sym (updateOrder0 sym (novelTable c sym s))

/-- The model after a symbol its context does not hold: the escape is counted, the symbol is noted in the context, and
the order-0 table is UPDATEd. -/
def novelModel (sym : Byte) (s : State) : State :=
  noteSymbol (ctxIndex s) sym (escapedContext s)

theorem escapedContext_of_empty {s : State} (empty : (readTable (ctxIndex s) s).sum = 0) : escapedContext s = s :=
  if_pos empty

theorem escapedContext_of_nonempty {s : State} (nonempty : (readTable (ctxIndex s) s).sum ≠ 0) :
    escapedContext s = escapeTable (ctxIndex s) s := if_neg nonempty

/-- The escape changes the context memory and nothing else. -/
theorem escapedContext_eq (s : State) : escapedContext s = { s with tables := (escapedContext s).tables } := by
  unfold escapedContext
  split <;> rfl

/-! ### The fields of the model -/

theorem hitModel_eq (sym : Byte) (s : State) : hitModel sym s = { s with
    tables := (hitModel sym s).tables
    freqmax := freqmaxUpdated (readTable (ctxIndex s) s) sym.toNat s
    ctxid := (s.ctxid <<< 8) ||| sym.setWidth 64 } := rfl

theorem novelModel_eq (sym : Byte) (s : State) : novelModel sym s = { s with
    tables := (novelModel sym s).tables
    order0 := s.order0.updated sym.toNat s.freqmax
    freqmax := freqmaxUpdated s.order0 sym.toNat s
    ctxid := (s.ctxid <<< 8) ||| sym.setWidth 64 } := by
  rw [novelModel, escapedContext_eq]
  rfl

/-! ### The context memory of the model -/

/-- `T[c]` depends on the context memory alone. -/
theorem readTable_congr {s t : State} (h : t.tables = s.tables) (c : BitVec 8) : readTable c t = readTable c s := by
  rw [readTable, readTable, h]

theorem writeTable_wf {s : State} (wf : ContextMem.wf s.tables) (c : BitVec 8) (t : Table) :
    ContextMem.wf (writeTable c t s).tables := ContextMem.write_wf s.tables c.toNat t c.isLt wf

theorem hitModel_tables (sym : Byte) (s : State) : (hitModel sym s).tables =
    (writeTable (ctxIndex s) ((readTable (ctxIndex s) s).updated sym.toNat s.freqmax) s).tables := rfl

theorem novelModel_tables (sym : Byte) (s : State) : (novelModel sym s).tables =
    (writeTable (ctxIndex s) ((readTable (ctxIndex s) (escapedContext s)).novel sym.toNat) (escapedContext s)).tables :=
  rfl

theorem hitModel_wf {s : State} (wf : ContextMem.wf s.tables) (sym : Byte) : ContextMem.wf (hitModel sym s).tables := by
  rw [hitModel_tables]
  exact writeTable_wf wf _ _

theorem readTable_hitModel {s : State} (wf : ContextMem.wf s.tables) (sym : Byte) :
    readTable (ctxIndex s) (hitModel sym s) = (readTable (ctxIndex s) s).updated sym.toNat s.freqmax := by
  rw [readTable_congr (hitModel_tables sym s), readTable_writeTable_same _ _ s wf]

theorem readTable_hitModel_other {s : State} (wf : ContextMem.wf s.tables) (sym : Byte) {d : BitVec 8}
    (other : d ≠ ctxIndex s) : readTable d (hitModel sym s) = readTable d s := by
  rw [readTable_congr (hitModel_tables sym s), readTable_writeTable_other _ d _ s wf other]

theorem escapedContext_wf {s : State} (wf : ContextMem.wf s.tables) : ContextMem.wf (escapedContext s).tables := by
  unfold escapedContext
  split
  · exact wf
  · exact writeTable_wf wf _ _

theorem readTable_escapedContext {s : State} (wf : ContextMem.wf s.tables) :
    readTable (ctxIndex s) (escapedContext s) =
      if (readTable (ctxIndex s) s).sum = 0 then readTable (ctxIndex s) s else (readTable (ctxIndex s) s).escaped := by
  unfold escapedContext
  split
  · rfl
  · exact readTable_writeTable_same _ _ s wf

theorem readTable_escapedContext_other {s : State} (wf : ContextMem.wf s.tables) {d : BitVec 8}
    (other : d ≠ ctxIndex s) : readTable d (escapedContext s) = readTable d s := by
  unfold escapedContext
  split
  · rfl
  · exact readTable_writeTable_other _ d _ s wf other

theorem novelModel_wf {s : State} (wf : ContextMem.wf s.tables) (sym : Byte) :
    ContextMem.wf (novelModel sym s).tables := by
  rw [novelModel_tables]
  exact writeTable_wf (escapedContext_wf wf) _ _

theorem readTable_novelModel {s : State} (wf : ContextMem.wf s.tables) (sym : Byte) :
    readTable (ctxIndex s) (novelModel sym s) =
      (if (readTable (ctxIndex s) s).sum = 0 then readTable (ctxIndex s) s
        else (readTable (ctxIndex s) s).escaped).novel sym.toNat := by
  rw [readTable_congr (novelModel_tables sym s), readTable_writeTable_same _ _ _ (escapedContext_wf wf),
    readTable_escapedContext wf]

theorem readTable_novelModel_other {s : State} (wf : ContextMem.wf s.tables) (sym : Byte) {d : BitVec 8}
    (other : d ≠ ctxIndex s) : readTable d (novelModel sym s) = readTable d s := by
  rw [readTable_congr (novelModel_tables sym s), readTable_writeTable_other _ d _ _ (escapedContext_wf wf) other,
    readTable_escapedContext_other wf other]

end Sys2Proof.Machine
end

section
/-! Encoding a symbol (R222, R227, R230). -/

namespace Sys2Proof.Machine

/-- A count that is not 0 as a number. -/
theorem count_pos {w : Word} (h : w ≠ 0) : 1 ≤ w.toNat :=
  Nat.pos_iff_ne_zero.mpr fun zero => h (BitVec.eq_of_toNat_eq zero)

/-- The loop of a coder step with index `i` of table `t` (R171, R182): it starts at the share of the interval LOW, RANGE
that the table gives the index, emits or reads as many bytes as `bytes` has, and exits with `low'`, `range'`. -/
def ShareLoop (t : Table) (i : Nat) (low range : Word) (bytes : List Byte) (low' range' : Word) : Prop :=
  Renorm (low + BitVec.ofNat 32 (t.cumLo i * (range.toNat / t.sum.toNat)))
    (BitVec.ofNat 32 (range.toNat / t.sum.toNat * (t.count i).toNat)) bytes low' range'

/-- Coding an index that a table holds, where the sum covers the counts and RANGE the sum (R222). -/
theorem encodeFrom_spec {t : Table} {i : Nat} {s : State} (index : i < 257) (held : t.count i ≠ 0)
    (sound : t.total ≤ t.sum.toNat) (covered : t.sum.toNat ≤ s.range.toNat)
    (inside : s.low.toNat + s.range.toNat ≤ 2 ^ 32) : ∃ (bs : List Byte) (low' range' : Word),
      ShareLoop t i s.low s.range bs low' range' ∧ low'.toNat + range'.toNat ≤ 2 ^ 32 ∧
      encodeFrom t i s = .ok (setCoder low' range' (outWrites bs s)) := by
  have positive := count_pos held
  have share := t.cumLo_add_count_le index
  obtain ⟨bs, low', range', loop, inside', step⟩ :=
    encStep_spec (s := s) (lp := t.cumLo i) (hp := t.cumLo i + (t.count i).toNat) (by omega) (share.trans sound) covered
      inside
  rw [Nat.add_sub_cancel_left] at loop
  exact ⟨bs, low', range', loop, inside', step⟩

/-- Encoding a symbol that the context holds (R227). -/
theorem ppmEncCore_of_hit {sym : Byte} {s : State} (nonempty : (readTable (ctxIndex s) s).sum ≠ 0)
    (held : (readTable (ctxIndex s) s).count sym.toNat ≠ 0)
    (sound : (readTable (ctxIndex s) s).total ≤ (readTable (ctxIndex s) s).sum.toNat)
    (covered : (readTable (ctxIndex s) s).sum.toNat ≤ s.range.toNat)
    (inside : s.low.toNat + s.range.toNat ≤ 2 ^ 32) : ∃ (bs : List Byte) (low' range' : Word),
      ShareLoop (readTable (ctxIndex s) s) sym.toNat s.low s.range bs low' range' ∧
      low'.toNat + range'.toNat ≤ 2 ^ 32 ∧
      ppmEncCore sym s = .ok (setCoder low' range' (outWrites bs (hitModel sym s))) := by
  have hit : hits (readTable (ctxIndex s) s) sym = true := by
    rw [hits, Bool.and_eq_true, bne_iff_ne, bne_iff_ne]
    exact ⟨nonempty, held⟩
  obtain ⟨bs, low', range', loop, inside', codes⟩ := encodeFrom_spec (by omega) held sound covered inside
  refine ⟨bs, low', range', loop, inside', ?_⟩
  simp only [ppmEncCore, hit, if_true, codes]
  rw [outWrites_state, outWrites_state]
  rfl

/-! ### The coder and the model do not touch each other -/

theorem setCoder_noteSymbol (l r : Word) (c : BitVec 8) (sym : Byte) (s : State) :
    setCoder l r (noteSymbol c sym s) = noteSymbol c sym (setCoder l r s) := rfl

theorem outWrites_noteSymbol (bs : List Byte) (c : BitVec 8) (sym : Byte) (s : State) :
    outWrites bs (noteSymbol c sym s) = noteSymbol c sym (outWrites bs s) := by
  rw [outWrites_state, outWrites_state]
  rfl

/-- The second part of work whose first part answers. -/
theorem bind_of_ok {α β : Type} {x : Except Abort α} {a : α} (h : x = .ok a) (f : α → Except Abort β) :
    (x >>= f) = f a := by
  rw [h]
  rfl

@[simp] theorem outWrites_tables (bs : List Byte) (s : State) : (outWrites bs s).tables = s.tables := by
  rw [outWrites_state]

theorem outWrites_append (as bs : List Byte) (s : State) : outWrites (as ++ bs) s = outWrites bs (outWrites as s) := by
  induction as generalizing s with
  | nil => rfl
  | cons a as ih => exact ih (outWrite a s)

/-- The escape of R227 from an empty context does nothing, and from any other context codes the escape and counts it. -/
theorem encEscape_spec {s : State} (sound : TableSound (readTable (ctxIndex s) s))
    (covered : (readTable (ctxIndex s) s).sum.toNat ≤ s.range.toNat) (large : 2 ^ 14 ≤ s.range.toNat)
    (inside : s.low.toNat + s.range.toNat ≤ 2 ^ 32) : ∃ (bs : List Byte) (low' range' : Word),
      ((readTable (ctxIndex s) s).sum = 0 → bs = [] ∧ low' = s.low ∧ range' = s.range) ∧
      ((readTable (ctxIndex s) s).sum ≠ 0 → ShareLoop (readTable (ctxIndex s) s) 256 s.low s.range bs low' range') ∧
      bs.length ≤ 3 ∧ 2 ^ 14 ≤ range'.toNat ∧ low'.toNat + range'.toNat ≤ 2 ^ 32 ∧
      encEscape (ctxIndex s) s = .ok (setCoder low' range' (outWrites bs (escapedContext s))) := by
  by_cases empty : (readTable (ctxIndex s) s).sum = 0
  · refine ⟨[], s.low, s.range, fun _ => ⟨rfl, rfl, rfl⟩, fun nonempty => absurd empty nonempty, Nat.zero_le _, large,
      inside, ?_⟩
    rw [encEscape, if_pos empty, escapedContext_of_empty empty]
    rfl
  · have held : (readTable (ctxIndex s) s).count 256 ≠ 0 := fun zero => by
      have := sound.2 empty
      rw [zero] at this
      exact absurd this (by decide)
    obtain ⟨bs, low', range', loop, inside', codes⟩ := encodeFrom_spec (by decide) held sound.1 covered inside
    refine ⟨bs, low', range', fun zero => absurd zero empty, fun _ => loop, loop.length_le, loop.range_large, inside', ?_⟩
    rw [encEscape, if_neg empty, escapedContext_of_nonempty empty, escape, codes, outWrites_state, outWrites_state]
    rfl

/-- Encoding a symbol that the context does not hold (R227). -/
theorem ppmEncCore_of_novel {sym : Byte} {s : State} (novel : (readTable (ctxIndex s) s).count sym.toNat = 0)
    (sound : TableSound (readTable (ctxIndex s) s)) (order0 : Order0Ok s)
    (covered : (readTable (ctxIndex s) s).sum.toNat ≤ s.range.toNat) (large : 2 ^ 14 ≤ s.range.toNat)
    (inside : s.low.toNat + s.range.toNat ≤ 2 ^ 32) :
    ∃ (bs1 bs2 : List Byte) (low1 range1 low' range' : Word),
      ((readTable (ctxIndex s) s).sum = 0 → bs1 = [] ∧ low1 = s.low ∧ range1 = s.range) ∧
      ((readTable (ctxIndex s) s).sum ≠ 0 → ShareLoop (readTable (ctxIndex s) s) 256 s.low s.range bs1 low1 range1) ∧
      ShareLoop s.order0 sym.toNat low1 range1 bs2 low' range' ∧ low'.toNat + range'.toNat ≤ 2 ^ 32 ∧
      ppmEncCore sym s = .ok (setCoder low' range' (outWrites (bs1 ++ bs2) (novelModel sym s))) := by
  obtain ⟨counts, -, exact_, -, small⟩ := order0
  have miss : hits (readTable (ctxIndex s) s) sym = false := by
    rw [hits, novel, bne_self_eq_false, Bool.and_false]
  obtain ⟨bs1, low1, range1, ofEmpty, ofNonempty, -, large1, inside1, escapes⟩ := encEscape_spec sound covered large inside
  have same : (setCoder low1 range1 (outWrites bs1 (escapedContext s))).order0 = s.order0 := by
    rw [setCoder_order0, outWrites_state, escapedContext_eq]
  have held : s.order0.count sym.toNat ≠ 0 := fun zero => by
    have := counts sym.toNat (by omega)
    rw [zero] at this
    exact absurd this (by decide)
  obtain ⟨bs2, low', range', loop, inside', codes⟩ :=
    encodeFrom_spec (t := s.order0) (s := setCoder low1 range1 (outWrites bs1 (escapedContext s))) (by omega) held exact_.ge
      (by rw [setCoder_range]; omega) inside1
  refine ⟨bs1, bs2, low1, range1, low', range', ofEmpty, ofNonempty, loop, inside', ?_⟩
  rw [← same, outWrites_setCoder, setCoder_setCoder] at codes
  simp only [ppmEncCore, miss, Bool.false_eq_true, if_false, escapes]
  rw [novelModel, outWrites_append, outWrites_noteSymbol, outWrites_noteSymbol, setCoder_noteSymbol]
  exact bind_of_ok codes _

/-! ### PPM_ENC -/

/-- PPM_ENC past its checks is the symbol procedure (R230). -/
theorem exec_ppmEnc {s : State} (enc : s.mode = .enc) (empty : s.pcnt = 0) (sym : Byte) :
    exec (.ppmEnc sym) s = complete (encode (.ppmEnc sym)) s (ppmEncCore sym s) := by
  have inEnc : (s.mode == .enc) = true := beq_iff_eq.mpr enc
  have unpacked : (s.pcnt == 0) = true := beq_iff_eq.mpr empty
  rw [exec, execPpmEnc, require_true inEnc, require_true unpacked]

/-- Settles O31: the symbol procedure takes its first branch. -/
theorem ppmEncHitCodesFromTheContext : Obligations.PpmEncHitCodesFromTheContext := by
  intro s sym enc empty ok wf exact_ nonempty held covered
  obtain ⟨-, inside⟩ := ok.encoder enc
  obtain ⟨bs, low', range', loop, -, codes⟩ := ppmEncCore_of_hit nonempty held exact_.sound.1 covered inside
  refine ⟨bs, { setCoder low' range' (outWrites bs (hitModel sym s)) with pc := s.pc + 1 }, ?_, loop, ?_, ?_, ?_⟩
  · rw [exec_ppmEnc enc empty, codes, complete_ok]
  · rw [outWrites_state, hitModel_eq]
    rfl
  · exact (readTable_congr (outWrites_tables bs _) _).trans (readTable_hitModel wf sym)
  · exact fun d other => (readTable_congr (outWrites_tables bs _) d).trans (readTable_hitModel_other wf sym other)

/-- Settles O32: the symbol procedure takes its second branch. -/
theorem ppmEncNovelCodesFromOrder0 : Obligations.PpmEncNovelCodesFromOrder0 := by
  intro s sym enc empty ok order0 wf exact_ novel covered
  obtain ⟨large, inside⟩ := ok.encoder enc
  obtain ⟨bs1, bs2, low1, range1, low', range', ofEmpty, ofNonempty, loop, -, codes⟩ :=
    ppmEncCore_of_novel novel exact_.sound order0 covered large inside
  refine ⟨bs1, bs2, low1, range1, { setCoder low' range' (outWrites (bs1 ++ bs2) (novelModel sym s)) with
    pc := s.pc + 1 }, ?_, ofEmpty, ofNonempty, loop, ?_, ?_, ?_⟩
  · rw [exec_ppmEnc enc empty, codes, complete_ok]
  · rw [outWrites_state, novelModel_eq, List.length_append, List.append_assoc]
    rfl
  · exact (readTable_congr (outWrites_tables _ _) _).trans (readTable_novelModel wf sym)
  · exact fun d other => (readTable_congr (outWrites_tables _ _) d).trans (readTable_novelModel_other wf sym other)

end Sys2Proof.Machine
end

section
/-! Decoding an index from one table (R179, R182, R226, R228). -/

namespace Sys2Proof.Machine

/-! ### Runs of reads -/

/-- A change of the state that no read sees and that no read touches can be made before or after a run of reads. -/
theorem inReads_comm {g : State → State} (byte : ∀ s, nextByte (g s) = nextByte s)
    (after : ∀ s, afterRead (g s) = g (afterRead s)) (n : Nat) (s : State) :
    inReads n (g s) = ((inReads n s).1, g (inReads n s).2) := by
  induction n generalizing s with
  | zero => rfl
  | succ n ih => rw [inReads, inRead_fst, inRead_snd, byte, after, ih, inReads, inRead_fst, inRead_snd]

/-- The same of a run of reads shifted into CODE, if the change leaves CODE alone too. -/
theorem shiftCodes_comm {g : State → State} (byte : ∀ s, nextByte (g s) = nextByte s)
    (after : ∀ s, afterRead (g s) = g (afterRead s)) (code : ∀ s, (g s).code = s.code)
    (setCode : ∀ c s, setCode c (g s) = g (setCode c s)) (n : Nat) (s : State) :
    shiftCodes n (g s) = g (shiftCodes n s) := by
  rw [shiftCodes, inReads_comm byte after, code, setCode, shiftCodes]

theorem shiftCodes_escapeTable (n : Nat) (c : BitVec 8) (s : State) :
    shiftCodes n (escapeTable c s) = escapeTable c (shiftCodes n s) :=
  shiftCodes_comm (g := escapeTable c) (fun _ => rfl) (fun _ => rfl) (fun _ => rfl) (fun _ _ => rfl) n s

theorem shiftCodes_updateTable (n : Nat) (c : BitVec 8) (sym : Byte) (s : State) :
    shiftCodes n (updateTable c sym s) = updateTable c sym (shiftCodes n s) :=
  shiftCodes_comm (g := updateTable c sym) (fun _ => rfl) (fun _ => rfl) (fun _ => rfl) (fun _ _ => rfl) n s

theorem shiftCodes_pushCtx (n : Nat) (sym : Byte) (s : State) :
    shiftCodes n (pushCtx sym s) = pushCtx sym (shiftCodes n s) :=
  shiftCodes_comm (g := pushCtx sym) (fun _ => rfl) (fun _ => rfl) (fun _ => rfl) (fun _ _ => rfl) n s

theorem shiftCodes_novelTable (n : Nat) (c : BitVec 8) (sym : Byte) (s : State) :
    shiftCodes n (novelTable c sym s) = novelTable c sym (shiftCodes n s) :=
  shiftCodes_comm (g := novelTable c sym) (fun _ => rfl) (fun _ => rfl) (fun _ => rfl) (fun _ _ => rfl) n s

theorem shiftCodes_updateOrder0 (n : Nat) (sym : Byte) (s : State) :
    shiftCodes n (updateOrder0 sym s) = updateOrder0 sym (shiftCodes n s) :=
  shiftCodes_comm (g := updateOrder0 sym) (fun _ => rfl) (fun _ => rfl) (fun _ => rfl) (fun _ _ => rfl) n s

theorem shiftCodes_noteSymbol (n : Nat) (c : BitVec 8) (sym : Byte) (s : State) :
    shiftCodes n (noteSymbol c sym s) = noteSymbol c sym (shiftCodes n s) := by
  rw [noteSymbol, shiftCodes_pushCtx, shiftCodes_updateOrder0, shiftCodes_novelTable, noteSymbol]

/-- OVR set where a search overran (R28). -/
def markOvr (overran : Bool) (s : State) : State := { s with ovr := s.ovr || overran }

theorem markOvr_true (s : State) : markOvr true s = setOvr s := by
  rw [markOvr, Bool.or_true, setOvr]

theorem markOvr_false (s : State) : markOvr false s = s := by
  rw [markOvr, Bool.or_false]

theorem markOvr_markOvr (a b : Bool) (s : State) : markOvr b (markOvr a s) = markOvr (a || b) s := by
  simp only [markOvr, Bool.or_assoc]

theorem shiftCodes_markOvr (n : Nat) (overran : Bool) (s : State) :
    shiftCodes n (markOvr overran s) = markOvr overran (shiftCodes n s) :=
  shiftCodes_comm (g := markOvr overran) (fun _ => rfl) (fun _ => rfl) (fun _ => rfl) (fun _ _ => rfl) n s

/-- Two runs of reads are one. -/
theorem inReads_add (m n : Nat) (s : State) : inReads (m + n) s =
    ((inReads m s).1 ++ (inReads n (inReads m s).2).1, (inReads n (inReads m s).2).2) := by
  induction m generalizing s with
  | zero => rw [Nat.zero_add]; rfl
  | succ m ih => rw [Nat.succ_add, inReads, ih, inReads]; rfl

theorem codeAfter_append (code : Word) (as bs : List Byte) :
    codeAfter code (as ++ bs) = codeAfter (codeAfter code as) bs := by
  induction as generalizing code with
  | nil => rfl
  | cons a as ih => exact ih _

theorem shiftCodes_add (m n : Nat) (s : State) : shiftCodes (m + n) s = shiftCodes n (shiftCodes m s) := by
  rw [shiftCodes, inReads_add, codeAfter_append, shiftCodes, shiftCodes, inReads_setCode]
  rfl

/-! ### Cumulative counts -/

theorem Table.cumLo_succ (t : Table) {i : Nat} (h : i < 257) : t.cumLo (i + 1) = t.cumLo i + (t.count i).toNat := by
  rw [Table.cumLo, sumCounts_take_succ _ _ (by simpa using h), ← Table.count_eq t h, Table.cumLo]

theorem Table.cumLo_mono (t : Table) {i j : Nat} (h : i ≤ j) : t.cumLo i ≤ t.cumLo j := by
  have := sumCounts_take_le (t.freq.toList.take j) i
  rwa [List.take_take, min_eq_left h] at this

theorem Table.cumLo_all (t : Table) : t.cumLo 257 = t.total := by
  rw [Table.cumLo, List.take_of_length_le (by simp), Table.total]

/-- Below an index, plus the index, is at most what is below any later one. -/
theorem Table.cumLo_add_count_le_cumLo (t : Table) {i j : Nat} (h : i < j) (hj : j ≤ 257) :
    t.cumLo i + (t.count i).toNat ≤ t.cumLo j := by
  rw [← t.cumLo_succ (by omega : i < 257)]
  exact t.cumLo_mono h

/-- The shares of two indices do not overlap. -/
theorem Table.share_unique {t : Table} {i j f : Nat} (hi : i < 257) (hj : j < 257) (lowI : t.cumLo i ≤ f)
    (highI : f < t.cumLo i + (t.count i).toNat) (lowJ : t.cumLo j ≤ f) (highJ : f < t.cumLo j + (t.count j).toNat) :
    i = j := by
  rcases Nat.lt_trichotomy i j with less | same | more
  · have := t.cumLo_add_count_le_cumLo less (by omega)
    omega
  · exact same
  · have := t.cumLo_add_count_le_cumLo more (by omega)
    omega

/-! ### The search -/

theorem sumCounts_of_lastNonZero_none {i : Nat} {l : List Word} (h : lastNonZero i l = none) : sumCounts l = 0 := by
  induction l generalizing i with
  | nil => rfl
  | cons x l ih =>
    unfold lastNonZero at h
    split at h
    · cases h
    · next rest =>
      split at h
      · next zero =>
        rw [sumCounts, ih rest, zero]
        rfl
      · cases h

/-- A search over counts that are not all 0 answers (R226). -/
theorem search_answers {t : Table} {n : Nat} (some : 0 < t.cumLo n) (f : Nat) (s : State) :
    ∃ hit u, search t n f s = .ok (hit, u) := by
  unfold search
  simp only
  split
  · exact ⟨_, _, rfl⟩
  · split
    · next none => exact absurd (sumCounts_of_lastNonZero_none none) (Nat.pos_iff_ne_zero.mp some)
    · exact ⟨_, _, rfl⟩

/-- Index `i` is what a search over the first `n` counts finds for `f`: its share holds `f`, or no running total exceeds
`f` and its share is the last. -/
def Found (t : Table) (n f i : Nat) : Prop :=
  i < n ∧ t.count i ≠ 0 ∧ (t.cumLo i ≤ f ∧ f < t.cumLo i + (t.count i).toNat ∨
    t.cumLo n ≤ f ∧ t.cumLo i + (t.count i).toNat = t.cumLo n)

/-- A search over counts that are not all 0 finds an index, and sets OVR exactly where no running total exceeds `f`
(R226). -/
theorem search_spec {t : Table} {n : Nat} (counts : n ≤ 257) (some : 0 < t.cumLo n) (f : Nat) (s : State) :
    ∃ i, Found t n f i ∧
      search t n f s = .ok ((i, t.cumLo i, t.cumLo i + (t.count i).toNat), markOvr (decide (t.cumLo n ≤ f)) s) := by
  obtain ⟨⟨i, lp, hp⟩, u, found⟩ := search_answers some f s
  obtain ⟨index, rfl, rfl, proper, outcome⟩ := search_ok counts found
  have held : t.count i ≠ 0 := fun zero => by
    rw [zero] at proper
    exact absurd proper (Nat.lt_irrefl _)
  rcases outcome with ⟨rfl, lower, upper⟩ | ⟨rfl, overran, last⟩
  · have within := t.cumLo_add_count_le_cumLo index counts
    refine ⟨i, ⟨index, held, .inl ⟨lower, upper⟩⟩, ?_⟩
    rw [found, decide_eq_false (by omega), markOvr_false]
  · refine ⟨i, ⟨index, held, .inr ⟨overran, last⟩⟩, ?_⟩
    rw [found, decide_eq_true overran, markOvr_true]

/-! ### Query, search and update -/

/-- The query value of table `t` (R179): the part of the interval, cut into as many as the table's sum, in which CODE
lies. -/
def queryValue (t : Table) (s : State) : Nat := (s.code - s.low).toNat / (s.range.toNat / t.sum.toNat)

/-- Decoding an index from the first `n` counts of a table, not all 0, where the sum covers the counts and RANGE the sum
(R228). -/
theorem decodeFrom_spec {t : Table} {n : Nat} {s : State} (counts : n ≤ 257) (some : 0 < t.cumLo n)
    (sound : t.total ≤ t.sum.toNat) (covered : t.sum.toNat ≤ s.range.toNat)
    (inside : s.low.toNat + s.range.toNat ≤ 2 ^ 32) : ∃ (i : Nat) (bs : List Byte) (low' range' : Word),
      Found t n (queryValue t s) i ∧ ShareLoop t i s.low s.range bs low' range' ∧
      low'.toNat + range'.toNat ≤ 2 ^ 32 ∧
      decodeFrom t n s =
        .ok (i, setCoder low' range' (shiftCodes bs.length (markOvr (decide (t.cumLo n ≤ queryValue t s)) s))) := by
  have word := s.range.isLt
  have within := t.cumLo_mono counts
  rw [t.cumLo_all] at within
  obtain ⟨cut, parts⟩ := parts_of_scale (by omega : 1 ≤ t.sum.toNat) covered
  obtain ⟨f, query, divided, value⟩ := decQuery_spec (by omega) covered
  have value : f.toNat = queryValue t s := value
  obtain ⟨i, found, search⟩ := search_spec counts some f.toNat { s with range := BitVec.ofNat 32 (s.range.toNat / t.sum.toNat) }
  have positive := count_pos found.2.1
  have share := t.cumLo_add_count_le (Nat.lt_of_lt_of_le found.1 counts)
  obtain ⟨bs, low', range', loop, inside', update⟩ := decUpdate_spec (lp := t.cumLo i)
    (hp := t.cumLo i + (t.count i).toNat) (sc := t.sum.toNat)
    (s := setCoder s.low (BitVec.ofNat 32 (s.range.toNat / t.sum.toNat)) (markOvr (decide (t.cumLo n ≤ f.toNat)) s))
    (by omega) (share.trans sound) (by rw [setCoder_range]; omega)
    (by rw [setCoder_range, divided]; omega) (by rw [setCoder_low, setCoder_range, divided]; omega)
  rw [setCoder_low, setCoder_range, divided, Nat.add_sub_cancel_left, Nat.mul_comm _ (t.cumLo i)] at loop
  rw [shiftCodes_setCoder, setCoder_setCoder] at update
  rw [← value]
  refine ⟨i, bs, low', range', found, loop, inside', ?_⟩
  simp only [decodeFrom, bind_of_ok query, bind_of_ok search]
  exact bind_of_ok update _

/-- Decoding from a table whose sum RANGE does not cover divides to 0 (R287). -/
theorem decodeFrom_of_lt {t : Table} {n : Nat} {s : State} (short : s.range.toNat < t.sum.toNat) :
    decodeFrom t n s = .error (.raise .range) := by
  rw [decodeFrom, decQuery_of_lt short]
  rfl

end Sys2Proof.Machine
end

section
/-! Decoding a symbol (R226, R228, R231): from the order-0 table under an empty context, from the context, or from the
order-0 table after an escape. -/

namespace Sys2Proof.Machine

/-! ### The order-0 path -/

/-- The symbol that a search over the counts of 0..255 finds: the one whose share holds `f`, or 255 where no running total
exceeds `f` (R226). -/
def FoundSymbol (t : Table) (f : Nat) (sym : Byte) : Prop :=
  (t.cumLo sym.toNat ≤ f ∧ f < t.cumLo sym.toNat + (t.count sym.toNat).toNat) ∨ (t.cumLo 256 ≤ f ∧ sym = 255)

/-- A symbol's index as a byte and back. -/
theorem byte_toNat {i : Nat} (h : i < 256) : (BitVec.ofNat 8 i).toNat = i := by
  rw [BitVec.toNat_ofNat, Nat.mod_eq_of_lt h]

/-- In a table that gives every symbol a count, the last share of 0..255 is that of 255. -/
theorem Found.symbol {t : Table} {f i : Nat} (found : Found t 256 f i) (last : 1 ≤ (t.count 255).toNat) :
    FoundSymbol t f (BitVec.ofNat 8 i) := by
  obtain ⟨index, -, outcome⟩ := found
  rw [FoundSymbol, byte_toNat index]
  refine outcome.imp_right fun ⟨overran, ends⟩ => ⟨overran, ?_⟩
  have is255 : i = 255 := by
    by_contra other
    have before := t.cumLo_add_count_le_cumLo (by omega : i < 255) (by decide)
    have after := t.cumLo_add_count_le_cumLo (by decide : 255 < 256) (by decide)
    omega
  rw [is255]
  rfl

/-- Decoding from the order-0 table (R228), from where `c` is the context that notes the symbol. -/
theorem decOrder0_spec {s : State} (order0 : Order0Ok s) (large : 2 ^ 14 ≤ s.range.toNat)
    (inside : s.low.toNat + s.range.toNat ≤ 2 ^ 32) (c : BitVec 8) :
    ∃ (sym : Byte) (bs : List Byte) (low' range' : Word),
      FoundSymbol s.order0 (queryValue s.order0 s) sym ∧ ShareLoop s.order0 sym.toNat s.low s.range bs low' range' ∧
      low'.toNat + range'.toNat ≤ 2 ^ 32 ∧
      decOrder0 c s = .ok (sym, setCoder low' range' (shiftCodes bs.length
        (markOvr (decide (s.order0.cumLo 256 ≤ queryValue s.order0 s)) (noteSymbol c sym s)))) := by
  obtain ⟨counts, -, exact_, -, small⟩ := order0
  have last := counts 255 (by decide)
  have some : 0 < s.order0.cumLo 256 := by
    have := s.order0.cumLo_add_count_le_cumLo (by decide : 255 < 256) (by decide)
    omega
  obtain ⟨i, bs, low', range', found, loop, inside', decodes⟩ :=
    decodeFrom_spec (by decide) some exact_.ge (by omega) inside
  have index := byte_toNat found.1
  refine ⟨BitVec.ofNat 8 i, bs, low', range', found.symbol last, by rwa [index], inside', ?_⟩
  simp only [decOrder0, bind_of_ok decodes]
  rw [show markOvr _ (noteSymbol c (BitVec.ofNat 8 i) s) = noteSymbol c (BitVec.ofNat 8 i) (markOvr _ s) from rfl,
    shiftCodes_noteSymbol, setCoder_noteSymbol]
  rfl

/-! ### The three paths of R228 -/

@[simp] theorem shiftCodes_order0 (n : Nat) (s : State) : (shiftCodes n s).order0 = s.order0 := by
  rw [shiftCodes_eq]

theorem ppmDecCore_of_empty {s : State} (empty : (readTable (ctxIndex s) s).sum = 0) (order0 : Order0Ok s)
    (large : 2 ^ 14 ≤ s.range.toNat) (inside : s.low.toNat + s.range.toNat ≤ 2 ^ 32) :
    ∃ (sym : Byte) (bs : List Byte) (low' range' : Word),
      FoundSymbol s.order0 (queryValue s.order0 s) sym ∧ ShareLoop s.order0 sym.toNat s.low s.range bs low' range' ∧
      low'.toNat + range'.toNat ≤ 2 ^ 32 ∧
      ppmDecCore s = .ok (sym, setCoder low' range' (shiftCodes bs.length
        (markOvr (decide (s.order0.cumLo 256 ≤ queryValue s.order0 s)) (novelModel sym s)))) := by
  obtain ⟨sym, bs, low', range', found, loop, inside', decodes⟩ := decOrder0_spec order0 large inside (ctxIndex s)
  refine ⟨sym, bs, low', range', found, loop, inside', ?_⟩
  rw [ppmDecCore, if_pos empty, decodes, novelModel, escapedContext_of_empty empty]

/-- The counts of a sound table that is not empty are not all 0. -/
theorem TableSound.cumLo_all_pos {t : Table} (sound : TableSound t) (nonempty : t.sum ≠ 0) : 0 < t.cumLo 257 := by
  have esc := sound.2 nonempty
  have := t.cumLo_add_count_le_cumLo (by decide : 256 < 257) le_rfl
  omega

/-- Where the counts of 0..255 reach past the query value, the context holds the symbol. -/
theorem ppmDecCore_of_hit {s : State} (nonempty : (readTable (ctxIndex s) s).sum ≠ 0)
    (sound : TableSound (readTable (ctxIndex s) s))
    (covered : (readTable (ctxIndex s) s).sum.toNat ≤ s.range.toNat) (inside : s.low.toNat + s.range.toNat ≤ 2 ^ 32)
    (hit : queryValue (readTable (ctxIndex s) s) s < (readTable (ctxIndex s) s).cumLo 256) :
    ∃ (sym : Byte) (bs : List Byte) (low' range' : Word),
      (readTable (ctxIndex s) s).cumLo sym.toNat ≤ queryValue (readTable (ctxIndex s) s) s ∧
      queryValue (readTable (ctxIndex s) s) s <
        (readTable (ctxIndex s) s).cumLo sym.toNat + ((readTable (ctxIndex s) s).count sym.toNat).toNat ∧
      ShareLoop (readTable (ctxIndex s) s) sym.toNat s.low s.range bs low' range' ∧
      low'.toNat + range'.toNat ≤ 2 ^ 32 ∧
      ppmDecCore s = .ok (sym, setCoder low' range' (shiftCodes bs.length (hitModel sym s))) := by
  have all := (readTable (ctxIndex s) s).cumLo_mono (by decide : 256 ≤ 257)
  obtain ⟨i, bs, low', range', ⟨index, -, outcome⟩, loop, inside', decodes⟩ :=
    decodeFrom_spec le_rfl (sound.cumLo_all_pos nonempty) sound.1 covered inside
  obtain ⟨lower, upper⟩ := outcome.resolve_right (by omega)
  have symbol : i < 256 := by
    by_contra esc
    obtain rfl : i = 256 := by omega
    omega
  have notEscape : i ≠ escape := by rw [escape]; omega
  have inTotal : decide ((readTable (ctxIndex s) s).cumLo 257 ≤ queryValue (readTable (ctxIndex s) s) s) = false :=
    decide_eq_false (by omega)
  rw [inTotal, markOvr_false] at decodes
  have same := byte_toNat symbol
  refine ⟨BitVec.ofNat 8 i, bs, low', range', by rwa [same], by rwa [same], by rwa [same], inside', ?_⟩
  simp only [ppmDecCore, if_neg nonempty, bind_of_ok decodes, if_neg notEscape]
  rw [hitModel, shiftCodes_pushCtx, shiftCodes_updateTable]
  rfl

/-- The two coder steps of an escape and a symbol, as one run of reads after the model's changes. -/
theorem decoded_twice (m n : Nat) (a b : Bool) (l r l' r' : Word) (c : BitVec 8) (sym : Byte) (s : State) :
    setCoder l' r' (shiftCodes n (markOvr b (noteSymbol c sym
        (setCoder l r (markOvr a (escapeTable c (shiftCodes m s))))))) =
      setCoder l' r' (shiftCodes (m + n) (markOvr (a || b) (noteSymbol c sym (escapeTable c s)))) := by
  have swap : markOvr b (noteSymbol c sym (setCoder l r (markOvr a (escapeTable c (shiftCodes m s))))) =
      setCoder l r (markOvr b (markOvr a (noteSymbol c sym (escapeTable c (shiftCodes m s))))) := rfl
  rw [swap, shiftCodes_setCoder, setCoder_setCoder, markOvr_markOvr, shiftCodes_add, shiftCodes_markOvr m,
    shiftCodes_noteSymbol m, shiftCodes_escapeTable m]

/-- Where they do not, the escape is found, clamped or not, and the symbol comes from the order-0 table. -/
theorem ppmDecCore_of_escape {s : State} (nonempty : (readTable (ctxIndex s) s).sum ≠ 0)
    (sound : TableSound (readTable (ctxIndex s) s)) (order0 : Order0Ok s)
    (covered : (readTable (ctxIndex s) s).sum.toNat ≤ s.range.toNat) (inside : s.low.toNat + s.range.toNat ≤ 2 ^ 32)
    (escapes : (readTable (ctxIndex s) s).cumLo 256 ≤ queryValue (readTable (ctxIndex s) s) s) :
    ∃ (sym : Byte) (bs1 bs2 : List Byte) (low1 range1 low' range' : Word),
      ShareLoop (readTable (ctxIndex s) s) 256 s.low s.range bs1 low1 range1 ∧
      FoundSymbol s.order0 (queryValue s.order0 (setCoder low1 range1 (shiftCodes bs1.length s))) sym ∧
      ShareLoop s.order0 sym.toNat low1 range1 bs2 low' range' ∧ low'.toNat + range'.toNat ≤ 2 ^ 32 ∧
      ppmDecCore s = .ok (sym, setCoder low' range' (shiftCodes (bs1.length + bs2.length)
        (markOvr (decide ((readTable (ctxIndex s) s).total ≤ queryValue (readTable (ctxIndex s) s) s) ||
            decide (s.order0.cumLo 256 ≤ queryValue s.order0 (setCoder low1 range1 (shiftCodes bs1.length s))))
          (novelModel sym s)))) := by
  obtain ⟨i, bs1, low1, range1, ⟨index, -, outcome⟩, loop1, inside1, decodes⟩ :=
    decodeFrom_spec le_rfl (sound.cumLo_all_pos nonempty) sound.1 covered inside
  have esc := sound.2 nonempty
  obtain rfl : i = 256 := by
    by_contra other
    have before := (readTable (ctxIndex s) s).cumLo_add_count_le_cumLo (by omega : i < 256) (by decide)
    have after := (readTable (ctxIndex s) s).cumLo_add_count_le_cumLo (by decide : 256 < 257) le_rfl
    omega
  rw [shiftCodes_markOvr, (readTable (ctxIndex s) s).cumLo_all] at decodes
  -- the state after the escape, from which the order-0 path starts
  have escaped (b : Bool) : escapeTable (ctxIndex s) (setCoder low1 range1 (markOvr b (shiftCodes bs1.length s))) =
      setCoder low1 range1 (markOvr b (escapeTable (ctxIndex s) (shiftCodes bs1.length s))) := rfl
  have table (b : Bool) : (setCoder low1 range1 (markOvr b (escapeTable (ctxIndex s) (shiftCodes bs1.length s)))).order0 =
      s.order0 := shiftCodes_order0 bs1.length s
  obtain ⟨sym, bs2, low', range', found, loop2, inside', notes⟩ := decOrder0_spec
    (s := setCoder low1 range1 (markOvr (decide ((readTable (ctxIndex s) s).total ≤ queryValue (readTable (ctxIndex s) s) s))
      (escapeTable (ctxIndex s) (shiftCodes bs1.length s))))
    (by rw [order0Ok_iff, table]; exact order0) loop1.range_large inside1 (ctxIndex s)
  rw [table] at found loop2 notes
  refine ⟨sym, bs1, bs2, low1, range1, low', range', loop1, found, loop2, inside', ?_⟩
  simp only [ppmDecCore, if_neg nonempty, bind_of_ok decodes, escape, if_true]
  rw [escaped, notes, novelModel, escapedContext_of_nonempty nonempty]
  exact congrArg (fun u => Except.ok (sym, u)) (decoded_twice ..)

end Sys2Proof.Machine
end

section
/-! PPM_DEC (R226, R228, R231), and that it mirrors PPM_ENC (R186, R227). -/

namespace Sys2Proof.Machine

/-! ### The state a decoder leaves -/

/-- The state after a decoder's coder steps: `n` bytes read into CODE, LOW and RANGE of the last loop, OVR where a search
overran, and the model `m`. -/
def decoded (low range : Word) (n : Nat) (overran : Bool) (m : State) : State :=
  setCoder low range (shiftCodes n (markOvr overran m))

/-- The part of the state that reads see is the same in both. -/
def SameInput (s t : State) : Prop :=
  s.inp = t.inp ∧ s.inptr = t.inptr ∧ s.inlim = t.inlim ∧ s.pastend = t.pastend ∧ s.code = t.code

theorem sameInput_hitModel (sym : Byte) (s : State) : SameInput (hitModel sym s) s := ⟨rfl, rfl, rfl, rfl, rfl⟩

theorem sameInput_novelModel (sym : Byte) (s : State) : SameInput (novelModel sym s) s := by
  rw [novelModel_eq]
  exact ⟨rfl, rfl, rfl, rfl, rfl⟩

theorem SameInput.afterRead {s t : State} (h : SameInput s t) :
    nextByte s = nextByte t ∧ SameInput (afterRead s) (afterRead t) := by
  obtain ⟨inp, inptr, inlim, pastend, code⟩ := h
  have ends : inputEnd s = inputEnd t := by rw [inputEnd, inputEnd, inp, inlim]
  constructor
  · simp only [nextByte, ends, inptr, inp]
  · refine ⟨inp, ?_, inlim, ?_, code⟩
    · simp only [Machine.afterRead, inptr]
    · simp only [Machine.afterRead, ends, inptr, pastend]

/-- Runs of reads agree where they see the same. -/
theorem SameInput.inReads {s t : State} (h : SameInput s t) (n : Nat) :
    (inReads n s).1 = (inReads n t).1 ∧ SameInput (inReads n s).2 (inReads n t).2 := by
  induction n generalizing s t with
  | zero => exact ⟨rfl, h⟩
  | succ n ih =>
    obtain ⟨byte, after⟩ := h.afterRead
    obtain ⟨bytes, rest⟩ := ih after
    simp only [Machine.inReads, inRead_fst, inRead_snd, byte, bytes]
    exact ⟨trivial, rest⟩

/-- The fields that a decoder's coder steps write, from a model that the reads do not see. -/
theorem decoded_eq {m s : State} (same : SameInput m s) (low range : Word) (n : Nat) (overran : Bool) :
    decoded low range n overran m = { m with
      low := low, range := range, code := codeAfter s.code (inReads n s).1, ovr := m.ovr || overran
      inptr := (inReads n s).2.inptr, pastend := (inReads n s).2.pastend } := by
  obtain ⟨bytes, -, inptr, -, pastend, -⟩ := same.inReads n
  obtain ⟨-, -, -, -, code⟩ := same
  rw [decoded, shiftCodes_markOvr, shiftCodes_eq, bytes, inptr, pastend, code]
  rfl

@[simp] theorem decoded_tables (low range : Word) (n : Nat) (overran : Bool) (m : State) :
    (decoded low range n overran m).tables = m.tables := by
  rw [decoded, shiftCodes_markOvr, shiftCodes_eq]
  rfl

/-! ### PPM_DEC -/

/-- PPM_DEC past its checks, where the symbol procedure answers (R231). -/
theorem exec_ppmDec {s u : State} {sym : Byte} (dec : s.mode = .dec) (noQuery : s.qpend = false) (empty : s.ucnt = 0)
    (decodes : ppmDecCore s = .ok (sym, u)) :
    exec .ppmDec s = .next { resPush (sym.setWidth 32) u with pc := s.pc + 1 } := by
  have inDec : (s.mode == .dec) = true := beq_iff_eq.mpr dec
  have sequence : (!s.qpend && s.ucnt == 0) = true := by simp [noQuery, empty]
  rw [exec, execPpmDec, require_true inDec, require_true sequence, bind_of_ok decodes, complete_ok]

/-- A symbol whose share holds `f` lies below every count of 256 on. -/
theorem lt_cumLo_256_of_share {t : Table} {f : Nat} {sym : Byte}
    (upper : f < t.cumLo sym.toNat + (t.count sym.toNat).toNat) : ¬ t.cumLo 256 ≤ f :=
  Nat.not_le.mpr (upper.trans_le (t.cumLo_add_count_le_cumLo sym.isLt (by decide)))

/-- Settles O34: the first path of R228. -/
theorem ppmDecFromAnEmptyContext : Obligations.PpmDecFromAnEmptyContext := by
  intro s dec noQuery unpacked ok order0 wf empty
  obtain ⟨large, inside⟩ := ok.settled (by simp [dec]) noQuery
  obtain ⟨sym, bs, low', range', found, loop, -, decodes⟩ := ppmDecCore_of_empty empty order0 large inside
  change ppmDecCore s = .ok (sym, decoded low' range' bs.length _ (novelModel sym s)) at decodes
  have state := decoded_eq (sameInput_novelModel sym s) low' range' bs.length
    (decide (s.order0.cumLo 256 ≤ queryValue s.order0 s))
  have tables := decoded_tables low' range' bs.length (decide (s.order0.cumLo 256 ≤ queryValue s.order0 s))
    (novelModel sym s)
  have flag : (novelModel sym s).ovr = s.ovr := by rw [novelModel_eq]
  refine ⟨sym, bs, _, _, _, exec_ppmDec dec noQuery unpacked decodes, ?res, ?symbol, loop, rfl, ?state, ?context, ?others⟩
  case res => rw [state, novelModel_eq]; rfl
  case state => rw [state, novelModel_eq]; rfl
  case context =>
    have context := readTable_novelModel wf sym
    rw [if_pos empty] at context
    exact (readTable_congr tables _).trans context
  case others => exact fun d other => (readTable_congr tables d).trans (readTable_novelModel_other wf sym other)
  case symbol =>
    rw [state]
    refine found.imp (fun share => ⟨share.1, share.2, ?_⟩) (fun clamp => ⟨clamp.1, clamp.2, ?_⟩)
    · change ((novelModel sym s).ovr || _) = s.ovr
      rw [flag, decide_eq_false (lt_cumLo_256_of_share share.2), Bool.or_false]
    · change ((novelModel sym s).ovr || _) = true
      rw [decide_eq_true clamp.1, Bool.or_true]

/-- Settles O35: the second path of R228. -/
theorem ppmDecHitDecodesFromTheContext : Obligations.PpmDecHitDecodesFromTheContext := by
  intro s dec noQuery unpacked ok wf sound nonempty covered hit
  obtain ⟨-, inside⟩ := ok.settled (by simp [dec]) noQuery
  obtain ⟨sym, bs, low', range', lower, upper, loop, -, decodes⟩ :=
    ppmDecCore_of_hit nonempty sound covered inside hit
  rw [← markOvr_false (hitModel sym s)] at decodes
  change ppmDecCore s = .ok (sym, decoded low' range' bs.length false (hitModel sym s)) at decodes
  have state := decoded_eq (sameInput_hitModel sym s) low' range' bs.length false
  have tables := decoded_tables low' range' bs.length false (hitModel sym s)
  refine ⟨sym, bs, _, _, _, exec_ppmDec dec noQuery unpacked decodes, lower, upper, loop, rfl, ?_,
    (readTable_congr tables _).trans (readTable_hitModel wf sym),
    fun d other => (readTable_congr tables d).trans (readTable_hitModel_other wf sym other)⟩
  rw [state, hitModel_eq, Bool.or_false]
  rfl

/-- Settles O60: the third path of R228. -/
theorem ppmDecEscapesToOrder0 : Obligations.PpmDecEscapesToOrder0 := by
  intro s dec noQuery unpacked ok order0 wf sound nonempty covered escapes
  obtain ⟨-, inside⟩ := ok.settled (by simp [dec]) noQuery
  obtain ⟨sym, bs1, bs2, low1, range1, low', range', loop1, found, loop2, -, decodes⟩ :=
    ppmDecCore_of_escape nonempty sound order0 covered inside escapes
  have word : queryValue s.order0 (setCoder low1 range1 (shiftCodes bs1.length s)) < 2 ^ 32 :=
    (Nat.div_le_self ..).trans_lt (BitVec.isLt _)
  obtain ⟨f2, value⟩ : ∃ f2 : Word, f2.toNat = queryValue s.order0 (setCoder low1 range1 (shiftCodes bs1.length s)) :=
    ⟨_, (BitVec.toNat_ofNat ..).trans (Nat.mod_eq_of_lt word)⟩
  rw [← value] at found decodes
  change ppmDecCore s = .ok (sym, decoded low' range' (bs1.length + bs2.length) _ (novelModel sym s)) at decodes
  generalize overruns : (decide ((readTable (ctxIndex s) s).total ≤ queryValue (readTable (ctxIndex s) s) s) ||
    decide (s.order0.cumLo 256 ≤ f2.toNat)) = overran at decodes
  have state := decoded_eq (sameInput_novelModel sym s) low' range' (bs1.length + bs2.length) overran
  have tables := decoded_tables low' range' (bs1.length + bs2.length) overran (novelModel sym s)
  have flag : (novelModel sym s).ovr = s.ovr := by rw [novelModel_eq]
  have reads := inReads_add bs1.length bs2.length s
  refine ⟨sym, (inReads bs1.length s).1, bs2, (inReads bs2.length (inReads bs1.length s).2).1, low1, range1, f2,
    (inReads bs2.length (inReads bs1.length s).2).2, _, exec_ppmDec dec noQuery unpacked decodes, ⟨bs1, _, loop1, rfl⟩,
    value, found, ?loop, ?reads, ?state, ?flag, ?context, ?others⟩
  case loop => rw [state]; exact loop2
  case reads => rw [inReads_length]; exact reads
  case state => rw [state, reads, novelModel_eq]; rfl
  case flag =>
    rw [state]
    change ((novelModel sym s).ovr || overran) = true ↔ _
    rw [flag, ← overruns, Bool.or_eq_true, Bool.or_eq_true, decide_eq_true_iff, decide_eq_true_iff]
    rfl
  case context =>
    have context := readTable_novelModel wf sym
    rw [if_neg nonempty] at context
    exact (readTable_congr tables _).trans context
  case others => exact fun d other => (readTable_congr tables d).trans (readTable_novelModel_other wf sym other)

/-! ### Any input -/

/-- `m` is the model of `s` after coding `sym`, from a context that is not empty or from the order-0 table. -/
def CodedModel (sym : Byte) (s m : State) : Prop :=
  (readTable (ctxIndex s) s).sum ≠ 0 ∧ m = hitModel sym s ∨ m = novelModel sym s

theorem CodedModel.sameInput {sym : Byte} {s m : State} (h : CodedModel sym s m) : SameInput m s := by
  rcases h with ⟨-, rfl⟩ | rfl
  · exact sameInput_hitModel sym s
  · exact sameInput_novelModel sym s

theorem CodedModel.eq {sym : Byte} {s m : State} (h : CodedModel sym s m) : m = { s with
    tables := m.tables, order0 := m.order0, freqmax := m.freqmax
    ctxid := (s.ctxid <<< 8) ||| sym.setWidth 64 } := by
  rcases h with ⟨-, rfl⟩ | rfl
  · rfl
  · rw [novelModel_eq]

theorem CodedModel.others {sym : Byte} {s m : State} (h : CodedModel sym s m) (wf : ContextMem.wf s.tables)
    {d : BitVec 8} (other : d ≠ ctxIndex s) : readTable d m = readTable d s := by
  rcases h with ⟨-, rfl⟩ | rfl
  · exact readTable_hitModel_other wf sym other
  · exact readTable_novelModel_other wf sym other

/-- The symbol procedure answers on any input where the context's sum covers its counts and RANGE the sum (R288): each
path of R228 makes at most two coder steps of at most three reads. -/
theorem ppmDecCore_answers {s : State} (sound : TableSound (readTable (ctxIndex s) s)) (order0 : Order0Ok s)
    (covered : (readTable (ctxIndex s) s).sum.toNat ≤ s.range.toNat) (large : 2 ^ 14 ≤ s.range.toNat)
    (inside : s.low.toNat + s.range.toNat ≤ 2 ^ 32) :
    ∃ (sym : Byte) (low' range' : Word) (n : Nat) (overran : Bool) (m : State), CodedModel sym s m ∧ n ≤ 6 ∧
      2 ^ 14 ≤ range'.toNat ∧ low'.toNat + range'.toNat ≤ 2 ^ 32 ∧
      ppmDecCore s = .ok (sym, decoded low' range' n overran m) := by
  by_cases empty : (readTable (ctxIndex s) s).sum = 0
  · obtain ⟨sym, bs, low', range', -, loop, inside', decodes⟩ := ppmDecCore_of_empty empty order0 large inside
    exact ⟨sym, low', range', _, _, _, .inr rfl, loop.length_le.trans (by decide), loop.range_large, inside', decodes⟩
  by_cases hit : queryValue (readTable (ctxIndex s) s) s < (readTable (ctxIndex s) s).cumLo 256
  · obtain ⟨sym, bs, low', range', -, -, loop, inside', decodes⟩ := ppmDecCore_of_hit empty sound covered inside hit
    rw [← markOvr_false (hitModel sym s)] at decodes
    exact ⟨sym, low', range', _, _, _, .inl ⟨empty, rfl⟩,
      loop.length_le.trans (by decide), loop.range_large, inside', decodes⟩
  · obtain ⟨sym, bs1, bs2, low1, range1, low', range', loop1, -, loop2, inside', decodes⟩ :=
      ppmDecCore_of_escape empty sound order0 covered inside (Nat.le_of_not_lt hit)
    exact ⟨sym, low', range', _, _, _, .inr rfl, Nat.add_le_add loop1.length_le loop2.length_le, loop2.range_large,
      inside', decodes⟩

/-- Settles O33: `ppmDecCore_answers`. -/
theorem ppmDecPushesASymbol : Obligations.PpmDecPushesASymbol := by
  intro s dec noQuery unpacked ok order0 wf sound covered
  obtain ⟨large, inside⟩ := ok.settled (by simp [dec]) noQuery
  obtain ⟨sym, low', range', n, overran, m, model, few, -, -, decodes⟩ :=
    ppmDecCore_answers sound order0 covered large inside
  have state := decoded_eq model.sameInput low' range' n overran
  have flag : m.ovr = s.ovr := by rw [model.eq]
  refine ⟨sym, n, _, exec_ppmDec dec noQuery unpacked decodes, few, ?_, ?_,
    fun d other => (readTable_congr (decoded_tables low' range' n overran m) d).trans (model.others wf other)⟩
  · rw [state, model.eq]
    rfl
  · rw [state]
    change s.ovr = true → (m.ovr || overran) = true
    rw [flag, Bool.or_eq_true]
    exact .inl

end Sys2Proof.Machine
end

section
/-! PPM_DEC mirrors PPM_ENC (R186, R227, R228). -/

namespace Sys2Proof.Machine

/-! ### The decoder finds the symbol that CODE selects -/

/-- Where CODE lies in an index's share of the interval, the query value lies in its share of the counts (R186). -/
theorem queryValue_of_inShare {t : Table} {i : Nat} {s : State} (some : 1 ≤ t.sum.toNat)
    (covered : t.sum.toNat ≤ s.range.toNat) (share : InShare t i s.low s.range s.code) :
    t.cumLo i ≤ queryValue t s ∧ queryValue t s < t.cumLo i + (t.count i).toNat :=
  query_in_share (parts_of_scale some covered).1 share.1 share.2

/-- The search finds no symbol but the one whose share holds the query value. -/
theorem FoundSymbol.eq_of_share {t : Table} {f : Nat} {sym found : Byte} (h : FoundSymbol t f found)
    (lower : t.cumLo sym.toNat ≤ f) (upper : f < t.cumLo sym.toNat + (t.count sym.toNat).toNat) : found = sym := by
  rcases h with ⟨lower', upper'⟩ | ⟨overran, -⟩
  · exact BitVec.eq_of_toNat_eq (Table.share_unique (by omega) (by omega) lower' upper' lower upper)
  · exact absurd overran (lt_cumLo_256_of_share upper)

/-- The order-0 sum is not 0, and any RANGE between commands covers it. -/
theorem Order0Ok.some {s : State} (h : Order0Ok s) : 1 ≤ s.order0.sum.toNat := by
  obtain ⟨-, -, -, large, -⟩ := h
  omega

theorem Order0Ok.covered {s : State} (h : Order0Ok s) {range : Word} (large : 2 ^ 14 ≤ range.toNat) :
    s.order0.sum.toNat ≤ range.toNat := by
  obtain ⟨-, -, -, -, small⟩ := h
  omega

section
variable {d : State} {sym : Byte} (selects : CodeSelects sym d) (inside : d.low.toNat + d.range.toNat ≤ 2 ^ 32)

include selects inside

theorem ppmDecCore_selected_of_empty (order0 : Order0Ok d) (large : 2 ^ 14 ≤ d.range.toNat)
    (empty : (readTable (ctxIndex d) d).sum = 0) :
    ∃ (bs : List Byte) (low' range' : Word), ShareLoop d.order0 sym.toNat d.low d.range bs low' range' ∧
      ppmDecCore d = .ok (sym, decoded low' range' bs.length false (novelModel sym d)) := by
  obtain ⟨lower, upper⟩ := queryValue_of_inShare order0.some (order0.covered large) (selects.1 empty)
  obtain ⟨found, bs, low', range', is, loop, -, decodes⟩ := ppmDecCore_of_empty empty order0 large inside
  obtain rfl := is.eq_of_share lower upper
  rw [decide_eq_false (lt_cumLo_256_of_share upper)] at decodes
  exact ⟨bs, low', range', loop, decodes⟩

variable (nonempty : (readTable (ctxIndex d) d).sum ≠ 0) (sound : TableSound (readTable (ctxIndex d) d))
  (covered : (readTable (ctxIndex d) d).sum.toNat ≤ d.range.toNat)

include nonempty sound covered

theorem ppmDecCore_selected_of_hit (held : (readTable (ctxIndex d) d).count sym.toNat ≠ 0) :
    ∃ (bs : List Byte) (low' range' : Word),
      ShareLoop (readTable (ctxIndex d) d) sym.toNat d.low d.range bs low' range' ∧
      ppmDecCore d = .ok (sym, decoded low' range' bs.length false (hitModel sym d)) := by
  obtain ⟨lower, upper⟩ := queryValue_of_inShare (count_pos nonempty) covered (selects.2.1 nonempty held)
  obtain ⟨found, bs, low', range', lower', upper', loop, -, decodes⟩ :=
    ppmDecCore_of_hit nonempty sound covered inside (Nat.lt_of_not_le (lt_cumLo_256_of_share upper))
  obtain rfl : found = sym := BitVec.eq_of_toNat_eq (Table.share_unique (by omega) (by omega) lower' upper' lower upper)
  rw [← markOvr_false (hitModel found d)] at decodes
  exact ⟨bs, low', range', loop, decodes⟩

theorem ppmDecCore_selected_of_novel (order0 : Order0Ok d)
    (novel : (readTable (ctxIndex d) d).count sym.toNat = 0) :
    ∃ (bs1 bs2 : List Byte) (low1 range1 low' range' : Word),
      ShareLoop (readTable (ctxIndex d) d) 256 d.low d.range bs1 low1 range1 ∧
      ShareLoop d.order0 sym.toNat low1 range1 bs2 low' range' ∧
      ppmDecCore d = .ok (sym, decoded low' range' (bs1.length + bs2.length) false (novelModel sym d)) := by
  obtain ⟨-, -, ofNovel⟩ := selects
  obtain ⟨escapeShare, bytes, low1', range1', ⟨bs, r, escapeLoop, reads⟩, symbolShare⟩ := ofNovel nonempty novel
  obtain ⟨lower, upper⟩ := queryValue_of_inShare (count_pos nonempty) covered escapeShare
  obtain ⟨found, bs1, bs2, low1, range1, low', range', loop1, is, loop2, -, decodes⟩ :=
    ppmDecCore_of_escape nonempty sound order0 covered inside lower
  obtain ⟨rfl, rfl, rfl⟩ := loop1.unique escapeLoop
  have code : (setCoder low1 range1 (shiftCodes bs1.length d)).code = codeAfter d.code bytes := by
    rw [shiftCodes, reads]
    rfl
  rw [← code] at symbolShare
  obtain ⟨lower2, upper2⟩ := queryValue_of_inShare (s := setCoder low1 range1 (shiftCodes bs1.length d)) order0.some
    (order0.covered loop1.range_large) symbolShare
  obtain rfl := is.eq_of_share lower2 upper2
  rw [← Table.cumLo_succ _ (by decide), Table.cumLo_all] at upper
  rw [decide_eq_false (lt_cumLo_256_of_share upper2), decide_eq_false (by omega)] at decodes
  exact ⟨bs1, bs2, low1, range1, low', range', loop1, loop2, decodes⟩

end

/-! ### The two models -/

theorem SameModel.ctxIndex {e d : State} (h : SameModel e d) : ctxIndex e = ctxIndex d := by
  obtain ⟨-, -, -, ctxid, -, -, -⟩ := h
  rw [Machine.ctxIndex, Machine.ctxIndex, ctxid]

theorem SameModel.table {e d : State} (h : SameModel e d) :
    readTable (Machine.ctxIndex e) e = readTable (Machine.ctxIndex d) d := by
  have index := h.ctxIndex
  obtain ⟨-, -, -, -, tables, -, -⟩ := h
  rw [index, readTable_congr tables]

/-- A state with the same model is some state with the model's registers. -/
theorem SameModel.exists {e d : State} (h : SameModel e d) : ∃ s : State, e = { s with
    low := d.low, range := d.range, freqmax := d.freqmax, ctxid := d.ctxid, tables := d.tables, order0 := d.order0
    palsz := d.palsz } := by
  obtain ⟨low, range, freqmax, ctxid, tables, order0, palsz⟩ := h
  refine ⟨e, ?_⟩
  rw [← low, ← range, ← freqmax, ← ctxid, ← tables, ← order0, ← palsz]

theorem SameModel.hitModel {e d : State} (h : SameModel e d) (sym : Byte) :
    SameModel (hitModel sym e) (hitModel sym d) := by
  obtain ⟨s, rfl⟩ := h.exists
  exact ⟨rfl, rfl, rfl, rfl, rfl, rfl, rfl⟩

theorem SameModel.escapedContext {e d : State} (h : SameModel e d) : SameModel (escapedContext e) (escapedContext d) := by
  unfold Machine.escapedContext
  rw [← h.table]
  split
  · exact h
  · obtain ⟨s, rfl⟩ := h.exists
    exact ⟨rfl, rfl, rfl, rfl, rfl, rfl, rfl⟩

theorem SameModel.noteSymbol {e d : State} (h : SameModel e d) (c : BitVec 8) (sym : Byte) :
    SameModel (noteSymbol c sym e) (noteSymbol c sym d) := by
  obtain ⟨s, rfl⟩ := h.exists
  exact ⟨rfl, rfl, rfl, rfl, rfl, rfl, rfl⟩

theorem SameModel.novelModel {e d : State} (h : SameModel e d) (sym : Byte) :
    SameModel (novelModel sym e) (novelModel sym d) := by
  rw [Machine.novelModel, Machine.novelModel, h.ctxIndex]
  exact h.escapedContext.noteSymbol _ sym

/-- The two commands, where both procedures leave the same coder and models that are the same. -/
theorem SameModel.commands {e d m m' : State} {sym : Byte} {low' range' : Word} {bs : List Byte} {n : Nat}
    (same : SameModel m m') (model : CodedModel sym d m') (enc : e.mode = .enc) (unpacked : e.pcnt = 0)
    (dec : d.mode = .dec) (noQuery : d.qpend = false) (empty : d.ucnt = 0)
    (codes : ppmEncCore sym e = .ok (setCoder low' range' (outWrites bs m)))
    (decodes : ppmDecCore d = .ok (sym, decoded low' range' n false m')) :
    ∃ e' d' : State, exec (.ppmEnc sym) e = .next e' ∧ exec .ppmDec d = .next d' ∧
      d'.res = d.res ++ [sym.setWidth 32] ∧ d'.ovr = d.ovr ∧ SameModel e' d' := by
  refine ⟨_, _, by rw [exec_ppmEnc enc unpacked, codes, complete_ok], exec_ppmDec dec noQuery empty decodes, ?_, ?_, ?_⟩
  · rw [decoded_eq model.sameInput, model.eq]
    rfl
  · rw [decoded_eq model.sameInput, model.eq]
    exact Bool.or_false _
  · obtain ⟨-, -, freqmax, ctxid, tables, order0, palsz⟩ := same
    rw [decoded_eq model.sameInput, outWrites_state]
    exact ⟨rfl, rfl, freqmax, ctxid, tables, order0, palsz⟩

/-- Settles O36: encoder and decoder take the same path of R227 and R228, and the loops of a path are the same. -/
theorem ppmDecoderMirrorsEncoder : Obligations.PpmDecoderMirrorsEncoder := by
  intro e d sym same enc unpacked dec noQuery empty okE okD order0 wf exact_ covered selects
  obtain ⟨largeE, insideE⟩ := okE.encoder enc
  obtain ⟨large, inside⟩ := okD.settled (by simp [dec]) noQuery
  have table := same.table
  have sound := exact_.sound
  have soundD := sound
  have coveredD := covered
  obtain ⟨low, range, -, -, -, order, -⟩ := id same
  have orderD : Order0Ok d := by rw [order0Ok_iff] at order0 ⊢; rwa [← order]
  rw [table, range] at coveredD
  rw [table] at soundD
  by_cases novel : (readTable (ctxIndex d) d).count sym.toNat = 0
  · obtain ⟨bs1, bs2, low1, range1, low', range', ofEmpty, ofNonempty, loop, -, codes⟩ :=
      ppmEncCore_of_novel (table ▸ novel) sound order0 covered largeE insideE
    rw [table, low, range] at ofEmpty ofNonempty
    rw [order] at loop
    by_cases sum : (readTable (ctxIndex d) d).sum = 0
    · obtain ⟨-, rfl, rfl⟩ := ofEmpty sum
      obtain ⟨bs, lowD, rangeD, loopD, decodes⟩ := ppmDecCore_selected_of_empty selects inside orderD large sum
      obtain ⟨-, rfl, rfl⟩ := loop.unique loopD
      exact (same.novelModel sym).commands (.inr rfl) enc unpacked dec noQuery empty codes decodes
    · obtain ⟨bs1D, bs2D, low1D, range1D, lowD, rangeD, loop1D, loop2D, decodes⟩ :=
        ppmDecCore_selected_of_novel selects inside sum soundD coveredD orderD novel
      obtain ⟨-, rfl, rfl⟩ := (ofNonempty sum).unique loop1D
      obtain ⟨-, rfl, rfl⟩ := loop.unique loop2D
      exact (same.novelModel sym).commands (.inr rfl) enc unpacked dec noQuery empty codes decodes
  · have sum : (readTable (ctxIndex d) d).sum ≠ 0 := fun zero => novel (counts_zero_of_sum_zero soundD.1 zero (by omega))
    obtain ⟨bs, low', range', loop, -, codes⟩ :=
      ppmEncCore_of_hit (table ▸ sum) (table ▸ novel) sound.1 covered insideE
    rw [table, low, range] at loop
    obtain ⟨bsD, lowD, rangeD, loopD, decodes⟩ :=
      ppmDecCore_selected_of_hit selects inside sum soundD coveredD novel
    obtain ⟨-, rfl, rfl⟩ := loop.unique loopD
    exact (same.hitModel sym).commands (.inl ⟨sum, rfl⟩) enc unpacked dec noQuery empty codes decodes

end Sys2Proof.Machine
end

section
/-! A context sum that RANGE does not cover (R230, R231, R287). -/

namespace Sys2Proof.Machine

/-- Coding from a table whose sum RANGE does not cover divides to 0 (R287). -/
theorem encodeFrom_of_lt {t : Table} {s : State} (short : s.range.toNat < t.sum.toNat) (i : Nat) :
    encodeFrom t i s = .error (.raise .range) := encStep_of_lt short

/-- A sum that exceeds something is not 0. -/
theorem sum_ne_zero_of_lt {t : Table} {n : Nat} (short : n < t.sum.toNat) : t.sum ≠ 0 := fun zero => by
  rw [zero] at short
  exact absurd short (Nat.not_lt_zero n)

theorem ppmEncCore_of_lt {s : State} (short : s.range.toNat < (readTable (ctxIndex s) s).sum.toNat) (sym : Byte) :
    ppmEncCore sym s = .error (.raise .range) := by
  simp only [ppmEncCore]
  split
  · rw [encodeFrom_of_lt short]
    rfl
  · rw [encEscape, if_neg (sum_ne_zero_of_lt short), encodeFrom_of_lt short]
    rfl

theorem ppmDecCore_of_lt {s : State} (short : s.range.toNat < (readTable (ctxIndex s) s).sum.toNat) :
    ppmDecCore s = .error (.raise .range) := by
  simp only [ppmDecCore, if_neg (sum_ne_zero_of_lt short), decodeFrom_of_lt short]
  rfl

end Sys2Proof.Machine
end

section
/-! The packer and the unpacker (R261 to R265). -/

namespace Sys2Proof.Machine

/-! ### One slot of a byte -/

/-- What PIX_DEC pushes is the low index of the byte. -/
theorem lowIndex_eq (b : Byte) {w : Nat} (width : w ≤ 8) :
    (b &&& BitVec.ofNat 8 (2 ^ w - 1)).setWidth 32 = BitVec.ofNat 32 (b.toNat % 2 ^ w) := by
  have fits : 2 ^ w ≤ 2 ^ 8 := Nat.pow_le_pow_right (by decide) width
  have mask : (BitVec.ofNat 8 (2 ^ w - 1)).toNat = 2 ^ w - 1 := by
    rw [BitVec.toNat_ofNat, Nat.mod_eq_of_lt (by omega)]
  apply BitVec.eq_of_toNat_eq
  rw [BitVec.toNat_setWidth, BitVec.toNat_and, mask, Nat.and_two_pow_sub_one_eq_mod, BitVec.toNat_ofNat]

theorem dropIndex_toNat (b : Byte) (w : Nat) : (b >>> w).toNat = b.toNat / 2 ^ w := by
  rw [BitVec.toNat_ushiftRight, Nat.shiftRight_eq_div_pow]

/-- The last lines of R265 as fields. -/
theorem takeIndex_eq (s : State) : takeIndex s = { s with
    ubuf := s.ubuf >>> bitsPerIndex s, ucnt := s.ucnt - 1
    res := s.res ++ [BitVec.ofNat 32 (s.ubuf.toNat % 2 ^ bitsPerIndex s)] } := by
  rw [takeIndex, lowIndex_eq _ (bitsPerIndex_bounds s).2]
  rfl

/-- The slots up to slot `k` of a byte end within it. -/
theorem slot_le {s : State} {k : Nat} (slot : k + 1 ≤ indicesPerByte s) :
    k * bitsPerIndex s + bitsPerIndex s ≤ 8 := by
  have := Nat.mul_le_mul_right (bitsPerIndex s) slot
  have := indicesPerByte_mul_le s
  rw [← Nat.add_one_mul]
  omega

/-- The index joins the packed byte above what is there (R261). -/
theorem packedWith_toNat {s : State} {idx : BitVec 8} (slot : s.pcnt.toNat + 1 ≤ indicesPerByte s)
    (below : s.pacc.toNat < 2 ^ (s.pcnt.toNat * bitsPerIndex s)) (legal : idx.toNat < 2 ^ bitsPerIndex s) :
    (packedWith idx s).toNat = s.pacc.toNat + idx.toNat * 2 ^ (s.pcnt.toNat * bitsPerIndex s) := by
  have fits : idx.toNat * 2 ^ (s.pcnt.toNat * bitsPerIndex s) < 2 ^ 8 := calc
    _ < 2 ^ bitsPerIndex s * 2 ^ (s.pcnt.toNat * bitsPerIndex s) := (Nat.mul_lt_mul_right (by positivity)).mpr legal
    _ = 2 ^ (s.pcnt.toNat * bitsPerIndex s + bitsPerIndex s) := by rw [Nat.add_comm, Nat.pow_add]
    _ ≤ 2 ^ 8 := Nat.pow_le_pow_right (by decide) (slot_le slot)
  rw [packedWith, BitVec.toNat_or, BitVec.toNat_shiftLeft, Nat.shiftLeft_eq, Nat.mod_eq_of_lt fits, Nat.or_comm,
    ← Nat.shiftLeft_eq, ← Nat.shiftLeft_add_eq_or_of_lt below, Nat.shiftLeft_eq, Nat.add_comm]

/-- It stays below the next slot. -/
theorem packedWith_lt {s : State} {idx : BitVec 8} (slot : s.pcnt.toNat + 1 ≤ indicesPerByte s)
    (below : s.pacc.toNat < 2 ^ (s.pcnt.toNat * bitsPerIndex s)) (legal : idx.toNat < 2 ^ bitsPerIndex s) :
    (packedWith idx s).toNat < 2 ^ ((s.pcnt.toNat + 1) * bitsPerIndex s) := by
  rw [packedWith_toNat slot below legal, Nat.succ_mul, Nat.add_comm _ (bitsPerIndex s), Nat.pow_add]
  have := Nat.mul_le_mul_right (2 ^ (s.pcnt.toNat * bitsPerIndex s)) (Nat.succ_le_of_lt legal)
  rw [Nat.succ_mul] at this
  omega

theorem pcnt_succ_toNat {s : State} (slot : s.pcnt.toNat + 1 ≤ indicesPerByte s) :
    (s.pcnt + 1).toNat = s.pcnt.toNat + 1 := by
  have := (indicesPerByte_bounds s).2
  bv_omega

/-! ### The commands -/

theorem exec_pixEnc_room {s : State} {idx : BitVec 8} (enc : s.mode = .enc) (legal : idx.toNat < 2 ^ bitsPerIndex s)
    (room : s.pcnt.toNat + 1 < indicesPerByte s) : exec (.pixEnc idx) s =
      .next { s with pacc := packedWith idx s, pcnt := s.pcnt + 1, pc := s.pc + 1 } := by
  have inEnc : (s.mode == .enc) = true := beq_iff_eq.mpr enc
  rw [exec, execPixEnc, require_true inEnc, require_true (decide_eq_true legal), pcnt_succ_toNat room.le,
    if_neg room.ne, complete_ok]

theorem exec_pixEnc_full {s : State} {idx : BitVec 8} (enc : s.mode = .enc) (legal : idx.toNat < 2 ^ bitsPerIndex s)
    (full : s.pcnt.toNat + 1 = indicesPerByte s) : exec (.pixEnc idx) s =
      complete (encode (.pixEnc idx)) s (encodePacked (packedWith idx s) s) := by
  have inEnc : (s.mode == .enc) = true := beq_iff_eq.mpr enc
  rw [exec, execPixEnc, require_true inEnc, require_true (decide_eq_true legal), pcnt_succ_toNat full.le, if_pos full]

theorem exec_pixFlush_empty {s : State} (enc : s.mode = .enc) (empty : s.pcnt = 0) :
    exec .pixFlush s = .next { s with pc := s.pc + 1 } := by
  have inEnc : (s.mode == .enc) = true := beq_iff_eq.mpr enc
  rw [exec, execPixFlush, require_true inEnc, if_pos empty, complete_ok]

theorem exec_pixFlush_partial {s : State} (enc : s.mode = .enc) (packed : s.pcnt ≠ 0) :
    exec .pixFlush s = complete (encode .pixFlush) s (encodePacked s.pacc s) := by
  have inEnc : (s.mode == .enc) = true := beq_iff_eq.mpr enc
  rw [exec, execPixFlush, require_true inEnc, if_neg packed]

theorem exec_pixDec {s : State} (dec : s.mode = .dec) (noQuery : s.qpend = false) : exec .pixDec s =
    complete (encode .pixDec) s (refillUnpacker s >>= fun t => .ok (takeIndex t)) := by
  have inDec : (s.mode == .dec) = true := beq_iff_eq.mpr dec
  have sequence : (!s.qpend) = true := by rw [noQuery, Bool.not_false]
  rw [exec, execPixDec, require_true inDec, require_true sequence]

theorem exec_pixDec_held {s : State} (dec : s.mode = .dec) (noQuery : s.qpend = false) (held : s.ucnt ≠ 0) :
    exec .pixDec s = .next { takeIndex s with pc := s.pc + 1 } := by
  rw [exec_pixDec dec noQuery, refillUnpacker, if_neg held]
  exact complete_ok ..

theorem exec_pixDec_refilled {s t : State} {sym : Byte} (dec : s.mode = .dec) (noQuery : s.qpend = false)
    (empty : s.ucnt = 0) (decodes : ppmDecCore s = .ok (sym, t)) : exec .pixDec s = .next
      { takeIndex { t with ubuf := sym, ucnt := BitVec.ofNat 4 (indicesPerByte s) } with pc := s.pc + 1 } := by
  rw [exec_pixDec dec noQuery, refillUnpacker, if_pos empty, bind_of_ok decodes]
  exact complete_ok ..

/-- Settles O37: the first coder step of every symbol procedure is from the context, and raises. -/
theorem oversizedSumRaisesRange : Obligations.OversizedSumRaisesRange := by
  intro s short
  have packed (b : Byte) : encodePacked b s = .error (.raise .range) :=
    ppmEncCore_of_lt (s := { s with pacc := 0, pcnt := 0 }) short b
  refine ⟨fun enc empty sym => ?_, fun dec noQuery empty => ?_, fun enc full idx legal => ?_, fun enc partly => ?_,
    fun dec noQuery empty => ?_⟩
  · rw [exec_ppmEnc enc empty, ppmEncCore_of_lt short]
    rfl
  · have inDec : (s.mode == .dec) = true := beq_iff_eq.mpr dec
    have sequence : (!s.qpend && s.ucnt == 0) = true := by simp [noQuery, empty]
    rw [exec, execPpmDec, require_true inDec, require_true sequence, ppmDecCore_of_lt short]
    rfl
  · rw [exec_pixEnc_full enc legal full, packed]
    rfl
  · rw [exec_pixFlush_partial enc partly, packed]
    rfl
  · rw [exec_pixDec dec noQuery, refillUnpacker, if_pos empty, ppmDecCore_of_lt short]
    rfl

/-! ### Packing -/

/-- The symbol procedure of an encoder answers where the context's sum covers its counts and RANGE the sum: each path of
R227 makes at most two coder steps of at most three bytes. -/
theorem ppmEncCore_answers {s : State} (sound : TableSound (readTable (ctxIndex s) s)) (order0 : Order0Ok s)
    (covered : (readTable (ctxIndex s) s).sum.toNat ≤ s.range.toNat) (large : 2 ^ 14 ≤ s.range.toNat)
    (inside : s.low.toNat + s.range.toNat ≤ 2 ^ 32) (sym : Byte) :
    ∃ (low' range' : Word) (bs : List Byte) (m : State), CodedModel sym s m ∧
      2 ^ 14 ≤ range'.toNat ∧ low'.toNat + range'.toNat ≤ 2 ^ 32 ∧
      ppmEncCore sym s = .ok (setCoder low' range' (outWrites bs m)) := by
  by_cases novel : (readTable (ctxIndex s) s).count sym.toNat = 0
  · obtain ⟨bs1, bs2, low1, range1, low', range', -, -, loop, inside', codes⟩ :=
      ppmEncCore_of_novel novel sound order0 covered large inside
    exact ⟨low', range', _, _, .inr rfl, loop.range_large, inside', codes⟩
  · have nonempty : (readTable (ctxIndex s) s).sum ≠ 0 := fun zero =>
      novel (counts_zero_of_sum_zero sound.1 zero (by omega))
    obtain ⟨bs, low', range', loop, inside', codes⟩ := ppmEncCore_of_hit nonempty novel sound.1 covered inside
    exact ⟨low', range', _, _, .inl ⟨nonempty, rfl⟩, loop.range_large, inside', codes⟩

/-- The packer left empty, as the full byte is taken from it. -/
def emptyPacker (s : State) : State := { s with pacc := 0, pcnt := 0 }

theorem encodePacked_eq (b : Byte) (s : State) : encodePacked b s = ppmEncCore b (emptyPacker s) := rfl

/-- Encoding a packed byte does what PPM_ENC of it does with the packer emptied (R263, R264). -/
theorem encodePacked_as_ppmEnc {s : State} (enc : s.mode = .enc) (ok : CoderOk s) (order0 : Order0Ok s)
    (exact_ : TableExact (readTable (ctxIndex s) s))
    (covered : (readTable (ctxIndex s) s).sum.toNat ≤ s.range.toNat) (b : Byte) :
    ∃ t, exec (.ppmEnc b) (emptyPacker s) = .next t ∧ t.rstate = s.rstate ∧ t.pc = s.pc + 1 ∧
      ∀ w, complete w s (encodePacked b s) = .next t := by
  obtain ⟨large, inside⟩ := ok.encoder enc
  obtain ⟨low', range', bs, m, -, -, -, codes⟩ :=
    ppmEncCore_answers (s := emptyPacker s) exact_.sound order0 covered large inside b
  refine ⟨{ setCoder low' range' (outWrites bs m) with pc := s.pc + 1 }, ?_, ?_, rfl, fun w => ?_⟩
  · rw [exec_ppmEnc (s := emptyPacker s) enc rfl, codes]
    exact complete_ok ..
  · exact (ppmEncCore_rstate codes : (setCoder low' range' (outWrites bs m)).rstate = (emptyPacker s).rstate)
  · rw [encodePacked_eq, codes, complete_ok]

/-- Settles O38: the packed byte by `packedWith_toNat`, the full one by `encodePacked_as_ppmEnc`. -/
theorem pixEncPacksAnIndex : Obligations.PixEncPacksAnIndex := by
  rintro s idx enc legal ⟨slot, -, below, -, -⟩
  refine ⟨packedWith idx s, packedWith_toNat slot below legal, exec_pixEnc_room enc legal,
    fun full ok order0 _ exact_ covered => ?_⟩
  obtain ⟨t, codes, rstate, pc, packs⟩ := encodePacked_as_ppmEnc enc ok order0 exact_ covered (packedWith idx s)
  exact ⟨t, codes, rstate, pc, by rw [exec_pixEnc_full enc legal full, packs]⟩

/-- Settles O39. -/
theorem pixFlushEncodesThePartialByte : Obligations.PixFlushEncodesThePartialByte := by
  intro s enc
  refine ⟨exec_pixFlush_empty enc, fun partly ok order0 _ exact_ covered => ?_⟩
  obtain ⟨t, codes, rstate, pc, packs⟩ := encodePacked_as_ppmEnc enc ok order0 exact_ covered s.pacc
  exact ⟨t, codes, rstate, pc, by rw [exec_pixFlush_partial enc partly, packs]⟩

/-- Settles O40: without a refill by `takeIndex_eq`, with one by `ppmDecCore_answers` first. -/
theorem pixDecReturnsTheNextIndex : Obligations.PixDecReturnsTheNextIndex := by
  intro s dec noQuery
  refine ⟨fun held => ⟨s.ubuf >>> bitsPerIndex s, dropIndex_toNat .., ?_⟩, fun empty ok order0 _ sound covered => ?_⟩
  · rw [exec_pixDec_held dec noQuery held, takeIndex_eq]
  · obtain ⟨large, inside⟩ := ok.settled (by simp [dec]) noQuery
    obtain ⟨sym, low', range', n, overran, m, model, -, -, -, decodes⟩ :=
      ppmDecCore_answers sound order0 covered large inside
    have indices := indicesPerByte_bounds s
    have state := decoded_eq model.sameInput low' range' n overran
    have width : bitsPerIndex (decoded low' range' n overran m) = bitsPerIndex s := by rw [state, model.eq]; rfl
    have res : (decoded low' range' n overran m).res = s.res := by rw [state, model.eq]
    refine ⟨sym, sym >>> bitsPerIndex s, BitVec.ofNat 4 (indicesPerByte s) - 1, _,
      exec_ppmDec dec noQuery empty decodes, ?_, dropIndex_toNat .., ?_, ?_⟩
    · rw [← res]
      rfl
    · bv_omega
    · rw [exec_pixDec_refilled dec noQuery empty decodes, takeIndex_eq, ← width, ← res]
      rfl

/-! ### Packing then unpacking -/

/-- The number that indices of `w` bits make, the first in the low bits (R261). -/
def packedNumber (w : Nat) : List (BitVec 8) → Nat
  | [] => 0
  | i :: is => i.toNat + packedNumber w is * 2 ^ w

theorem packedNumber_concat (w : Nat) (is : List (BitVec 8)) (i : BitVec 8) :
    packedNumber w (is ++ [i]) = packedNumber w is + i.toNat * 2 ^ (is.length * w) := by
  induction is with
  | nil => simp [packedNumber]
  | cons j is ih =>
    rw [List.cons_append, packedNumber, ih, packedNumber, List.length_cons, Nat.succ_mul, Nat.pow_add]
    ring

/-- PIX_ENC of indices that leave the byte short of full. -/
theorem execAll_pixEnc {idxs : List (BitVec 8)} {s : State} (enc : s.mode = .enc)
    (room : s.pcnt.toNat + idxs.length < indicesPerByte s)
    (below : s.pacc.toNat < 2 ^ (s.pcnt.toNat * bitsPerIndex s)) (legal : ∀ i ∈ idxs, i.toNat < 2 ^ bitsPerIndex s) :
    ∃ b : Byte, b.toNat = s.pacc.toNat + packedNumber (bitsPerIndex s) idxs * 2 ^ (s.pcnt.toNat * bitsPerIndex s) ∧
      execAll (idxs.map .pixEnc) s = some { s with
        pacc := b, pcnt := s.pcnt + BitVec.ofNat 4 idxs.length, pc := s.pc + BitVec.ofNat 32 idxs.length } := by
  induction idxs generalizing s with
  | nil =>
    refine ⟨s.pacc, by simp [packedNumber], ?_⟩
    simp
  | cons i is ih =>
    have first := legal i (List.mem_cons_self ..)
    rw [List.length_cons] at room
    have slot : s.pcnt.toNat + 1 < indicesPerByte s := by omega
    have next := pcnt_succ_toNat slot.le
    obtain ⟨b, value, runs⟩ := ih (s := { s with pacc := packedWith i s, pcnt := s.pcnt + 1, pc := s.pc + 1 }) enc
      (by change (s.pcnt + 1).toNat + is.length < indicesPerByte s; omega)
      (by change _ < 2 ^ ((s.pcnt + 1).toNat * bitsPerIndex s); rw [next]; exact packedWith_lt slot.le below first)
      (fun j hj => legal j (List.mem_cons_of_mem i hj))
    refine ⟨b, ?_, ?_⟩
    · rw [value]
      change (packedWith i s).toNat + packedNumber (bitsPerIndex s) is * 2 ^ ((s.pcnt + 1).toNat * bitsPerIndex s) = _
      rw [packedWith_toNat slot.le below first, next, packedNumber, Nat.succ_mul, Nat.pow_add]
      ring
    · rw [List.map_cons, execAll_cons (exec_pixEnc_room enc first slot), runs]
      have step (w : Nat) (x : BitVec w) :
          x + 1 + BitVec.ofNat w is.length = x + BitVec.ofNat w (is.length + 1) := by
        rw [BitVec.add_assoc, Nat.add_comm, BitVec.ofNat_add]
        rfl
      change some { s with pacc := b, pcnt := s.pcnt + 1 + BitVec.ofNat 4 is.length
                           pc := s.pc + 1 + BitVec.ofNat 32 is.length } = _
      rw [step, step]
      rfl

/-- PIX_DEC as often as the unpacker holds indices. -/
theorem execAll_pixDec {idxs : List (BitVec 8)} {s : State} (dec : s.mode = .dec) (noQuery : s.qpend = false)
    (held : idxs.length ≤ s.ucnt.toNat) (value : s.ubuf.toNat = packedNumber (bitsPerIndex s) idxs)
    (legal : ∀ i ∈ idxs, i.toNat < 2 ^ bitsPerIndex s) :
    ∃ t, execAll (List.replicate idxs.length .pixDec) s = some t ∧ t.res = s.res ++ idxs.map (·.setWidth 32) := by
  induction idxs generalizing s with
  | nil => exact ⟨s, rfl, (List.append_nil _).symm⟩
  | cons i is ih =>
    have first := legal i (List.mem_cons_self ..)
    rw [List.length_cons] at held
    rw [packedNumber] at value
    have some : s.ucnt ≠ 0 := fun zero => by rw [zero] at held; exact absurd held (Nat.not_succ_le_zero _)
    have pushed : BitVec.ofNat 32 (s.ubuf.toNat % 2 ^ bitsPerIndex s) = i.setWidth 32 := by
      rw [value, Nat.add_mul_mod_self_right, Nat.mod_eq_of_lt first]
      exact BitVec.eq_of_toNat_eq (by rw [BitVec.toNat_ofNat, BitVec.toNat_setWidth])
    obtain ⟨t, runs, res⟩ := ih (s := { takeIndex s with pc := s.pc + 1 }) dec noQuery
      (by change is.length ≤ (s.ucnt - 1).toNat; bv_omega)
      (by
        change (s.ubuf >>> bitsPerIndex s).toNat = packedNumber (bitsPerIndex s) is
        rw [dropIndex_toNat, value, Nat.add_mul_div_right _ _ (by positivity), Nat.div_eq_of_lt first, Nat.zero_add])
      (fun j hj => legal j (List.mem_cons_of_mem i hj))
    refine ⟨t, ?_, ?_⟩
    · rw [List.length_cons, List.replicate_succ, execAll_cons (exec_pixDec_held dec noQuery some), runs]
    · rw [res, takeIndex_eq]
      change (s.res ++ [_]) ++ _ = _
      rw [pushed, List.append_assoc]
      rfl

/-- Settles O41: both sides agree on `packedNumber` of the indices. -/
theorem unpackerReturnsPackedIndices : Obligations.UnpackerReturnsPackedIndices := by
  rintro e idxs last enc ⟨-, -, below, -, -⟩ empty room legal legalLast
  rw [empty] at below
  obtain ⟨b, value, runs⟩ := execAll_pixEnc enc (by rw [empty]; exact (Nat.zero_add _).trans_lt room)
    (by rwa [empty]) legal
  have zero : e.pacc.toNat = 0 := by simpa using below
  rw [zero, empty] at value
  refine ⟨b, by simpa [empty] using runs, fun d dec noQuery same loaded held => ?_⟩
  have width : bitsPerIndex d = bitsPerIndex e := by rw [bitsPerIndex, paletteSize, same]; rfl
  obtain ⟨t, unpacks, res⟩ := execAll_pixDec (idxs := idxs ++ [last]) dec noQuery (by simpa using held)
    (by rw [packedNumber_concat, width, loaded, value]; simp)
    (by rw [width]; simpa [or_imp, forall_and] using ⟨legal, legalLast⟩)
  exact ⟨t, by simpa using unpacks, res⟩

end Sys2Proof.Machine
end

section
/-! The checks of R283 and the work that a command does past them (R283 to R287). -/

namespace Sys2Proof.Machine

/-! ### The work -/

/-- What a command does past its checks. -/
def work : Instr → State → Except Abort State
  | .nop, s => .ok s
  | .halt, s => .ok { s with rstate := .done }
  | .ldl u16, s => .ok { s with opr := s.opr.extractLsb' 16 16 ++ u16 }
  | .ldh u16, s => .ok { s with opr := u16 ++ s.opr.extractLsb' 0 16 }
  | .cfg u8, s => .ok { s with palsz := u8 }
  | .rdreg reg, s => .ok (resPush (readReg reg.toNat s) s)
  | .rdfreq S O i c, s => .ok (resPush (readFreq S O i c s) s)
  | .seek, s => .ok { s with inptr := s.opr }
  | .limit, s => .ok { s with inlim := s.opr }
  | .encInit, s => .ok (initCoderModel .enc s)
  | .encFlush, s => .ok { flushByte (flushByte (flushByte (flushByte s))) with mode := .idle }
  | .acEnc u16, s => encStep (oprLow s) (oprHigh s) u16.toNat s
  | .ppmEnc u8, s => ppmEncCore u8 s
  | .pixEnc u8, s =>
    if (s.pcnt + 1).toNat = indicesPerByte s then encodePacked (packedWith u8 s) s
    else .ok { s with pacc := packedWith u8 s, pcnt := s.pcnt + 1 }
  | .pixFlush, s => if s.pcnt = 0 then .ok s else encodePacked s.pacc s
  | .decInit, s => .ok (setCode
      ((inRead (initCoderModel .dec s)).1 ++ (inRead (inRead (initCoderModel .dec s)).2).1 ++
        (inRead (inRead (inRead (initCoderModel .dec s)).2).2).1 ++
        (inRead (inRead (inRead (inRead (initCoderModel .dec s)).2).2).2).1)
      (inReads 4 (initCoderModel .dec s)).2)
  | .decEnd, s => .ok { s with mode := .idle, qpend := false, ubuf := 0, ucnt := 0 }
  | .acDfreq u16, s =>
    decQuery u16.toNat s >>= fun queried => .ok (resPush queried.1 { queried.2 with qpend := true, qscale := u16 })
  | .acDupd, s => decUpdate (oprLow s) (oprHigh s) s >>= fun t => .ok { t with qpend := false }
  | .ppmDec, s => ppmDecCore s >>= fun decoded => .ok (resPush (decoded.1.setWidth 32) decoded.2)
  | .pixDec, s => refillUnpacker s >>= fun t => .ok (takeIndex t)
  | .varEnc, s => .ok (outWrites (varintBytes 5 s.opr) s)
  | .varDec, s => .ok (resPush (varintRead 5 0 s).1 (varintRead 5 0 s).2)

/-! ### The checks -/

theorem scale_checked {s : State} {u16 : BitVec 16} :
    (scaleLegal u16.toNat && intervalLegal (oprLow s) (oprHigh s) u16.toNat) = true ↔ legalTriple (.acEnc u16) s := by
  rw [Bool.and_eq_true, scaleLegal_iff, intervalLegal_iff, legalTriple, and_assoc]
  rfl

/-- Past its checks a command does its work, and completes (R283, R327). -/
theorem exec_of_checksPass {i : Instr} {s : State} (checks : ChecksPass i s) :
    exec i s = complete (encode i) s (work i s) := by
  obtain ⟨legal, mode, sequence, triple, index⟩ := checks
  cases i
  case nop | halt | ldl | ldh | seek | limit | encInit | decInit | varEnc | varDec => rfl
  case rdreg | rdfreq => exact congrArg (complete _ s) (require_true legal _ _)
  all_goals have inMode := beq_iff_eq.mpr (mode _ rfl)
  case cfg | pixFlush | decEnd => exact congrArg (complete _ s) (require_true inMode _ _)
  case encFlush | ppmEnc =>
    have unpacked : (s.pcnt == 0) = true := beq_iff_eq.mpr (not_not.mp sequence)
    exact congrArg (complete _ s) ((require_true inMode _ _).trans (require_true unpacked _ _))
  case acEnc =>
    exact congrArg (complete _ s) ((require_true inMode _ _).trans (require_true (scale_checked.mpr triple) _ _))
  case pixEnc u8 =>
    have inRange : decide (u8.toNat < 2 ^ bitsPerIndex s) = true := decide_eq_true index
    exact congrArg (complete _ s) ((require_true inMode _ _).trans (require_true inRange _ _))
  case pixDec =>
    have noQuery : (!s.qpend) = true := by simpa [breaksSequence] using sequence
    exact congrArg (complete _ s) ((require_true inMode _ _).trans (require_true noQuery _ _))
  case ppmDec =>
    have sequence : (!s.qpend && s.ucnt == 0) = true := by simpa [breaksSequence] using sequence
    exact congrArg (complete _ s) ((require_true inMode _ _).trans (require_true sequence _ _))
  case acDfreq =>
    have noQuery : (!s.qpend) = true := by simpa [breaksSequence] using sequence
    exact congrArg (complete _ s) ((require_true inMode _ _).trans
      ((require_true noQuery _ _).trans (require_true ((scaleLegal_iff _).mpr triple) _ _)))
  case acDupd =>
    have pending : s.qpend = true := by simpa [breaksSequence] using sequence
    exact congrArg (complete _ s) ((require_true inMode _ _).trans
      ((require_true pending _ _).trans (require_true ((intervalLegal_iff ..).mpr triple) _ _)))

theorem exec_of_illegal {i : Instr} {s : State} (illegal : i.wf = false) :
    exec i s = .next (faultEntry .illegal (encode i) s) := by
  cases i
  case rdreg | rdfreq => exact congrArg (complete _ s) (require_false illegal _ _)
  all_goals cases illegal

theorem exec_of_wrong_mode {i : Instr} {s : State} (wrong : ¬ modeMet i s) :
    exec i s = .next (faultEntry .mode (encode i) s) := by
  obtain ⟨m, needed, other⟩ : ∃ m, modeNeeded i = some m ∧ s.mode ≠ m := by
    simpa [modeMet] using wrong
  have failed : (s.mode == m) = false := beq_false_of_ne other
  cases i
  case nop | halt | ldl | ldh | seek | limit | encInit | decInit | varEnc | varDec | rdreg | rdfreq => cases needed
  all_goals
    obtain rfl := Option.some.inj needed
    exact congrArg (complete _ s) (require_false failed _ _)

theorem exec_of_broken_sequence {i : Instr} {s : State} (mode : modeMet i s) (broken : breaksSequence i s) :
    exec i s = .next (faultEntry .seq (encode i) s) := by
  cases i
  case nop | halt | ldl | ldh | cfg | rdreg | rdfreq | seek | limit | encInit | acEnc | pixEnc | pixFlush | decInit |
    decEnd | varEnc | varDec => cases broken
  all_goals have inMode := beq_iff_eq.mpr (mode _ rfl)
  case encFlush | ppmEnc =>
    have packed : (s.pcnt == 0) = false := beq_false_of_ne broken
    exact congrArg (complete _ s) ((require_true inMode _ _).trans (require_false packed _ _))
  case acDfreq | pixDec =>
    have pending : (!s.qpend) = false := by simpa [breaksSequence] using broken
    exact congrArg (complete _ s) ((require_true inMode _ _).trans (require_false pending _ _))
  case acDupd =>
    have noQuery : s.qpend = false := broken
    exact congrArg (complete _ s) ((require_true inMode _ _).trans (require_false noQuery _ _))
  case ppmDec =>
    have sequence : (!s.qpend && s.ucnt == 0) = false := by
      rcases broken with pending | held
      · rw [pending, Bool.not_true, Bool.false_and]
      · rw [beq_false_of_ne held, Bool.and_false]
    exact congrArg (complete _ s) ((require_true inMode _ _).trans (require_false sequence _ _))

theorem exec_of_illegal_triple {i : Instr} {s : State} (mode : modeMet i s) (sequence : ¬ breaksSequence i s)
    (illegal : ¬ legalTriple i s) : exec i s = .next (faultEntry .prob (encode i) s) := by
  cases i
  case acEnc =>
    have inMode := beq_iff_eq.mpr (mode _ rfl)
    have failed := Bool.eq_false_iff.mpr (mt scale_checked.mp illegal)
    exact congrArg (complete _ s) ((require_true inMode _ _).trans (require_false failed _ _))
  case acDfreq =>
    have inMode := beq_iff_eq.mpr (mode _ rfl)
    have noQuery : (!s.qpend) = true := by simpa [breaksSequence] using sequence
    have failed := Bool.eq_false_iff.mpr (mt (scaleLegal_iff _).mp illegal)
    exact congrArg (complete _ s) ((require_true inMode _ _).trans
      ((require_true noQuery _ _).trans (require_false failed _ _)))
  case acDupd =>
    have inMode := beq_iff_eq.mpr (mode _ rfl)
    have pending : s.qpend = true := by simpa [breaksSequence] using sequence
    have failed := Bool.eq_false_iff.mpr (mt (intervalLegal_iff ..).mp illegal)
    exact congrArg (complete _ s) ((require_true inMode _ _).trans
      ((require_true pending _ _).trans (require_false failed _ _)))
  all_goals exact absurd trivial illegal

theorem exec_of_illegal_index {i : Instr} {s : State} (mode : modeMet i s) (illegal : ¬ legalIndex i s) :
    exec i s = .next (faultEntry .index (encode i) s) := by
  cases i
  case pixEnc u8 =>
    have inMode := beq_iff_eq.mpr (mode _ rfl)
    have failed : decide (u8.toNat < 2 ^ bitsPerIndex s) = false := decide_eq_false illegal
    exact congrArg (complete _ s) ((require_true inMode _ _).trans (require_false failed _ _))
  all_goals exact absurd trivial illegal

/-- The first failing check is the one that raises (R283). -/
theorem exec_of_firstFailure {i : Instr} {s : State} {e : Cause} (fails : FirstFailure i s e) :
    exec i s = .next (faultEntry e (encode i) s) := by
  cases e with
  | illegal => exact exec_of_illegal fails
  | mode => exact exec_of_wrong_mode fails.2
  | seq =>
    obtain ⟨-, mode, broken⟩ := fails
    exact exec_of_broken_sequence mode broken
  | prob =>
    obtain ⟨-, mode, sequence, illegal⟩ := fails
    exact exec_of_illegal_triple mode sequence illegal
  | index =>
    obtain ⟨-, mode, -, -, illegal⟩ := fails
    exact exec_of_illegal_index mode illegal
  | range => cases fails

/-- Settles O42: `exec_of_firstFailure`. -/
theorem firstFailingCheckGivesTheCause : Obligations.FirstFailingCheckGivesTheCause :=
  fun _ _ _ fails => exec_of_firstFailure fails

/-- The checks pass, or one is the first to fail. -/
theorem checksPass_or_firstFailure (i : Instr) (s : State) : ChecksPass i s ∨ ∃ e, FirstFailure i s e := by
  by_cases legal : i.wf = true
  case neg => exact .inr ⟨.illegal, Bool.eq_false_iff.mpr legal⟩
  by_cases mode : modeMet i s
  case neg => exact .inr ⟨.mode, legal, mode⟩
  by_cases sequence : breaksSequence i s
  case pos => exact .inr ⟨.seq, legal, mode, sequence⟩
  by_cases triple : legalTriple i s
  case neg => exact .inr ⟨.prob, legal, mode, sequence, triple⟩
  by_cases index : legalIndex i s
  case neg => exact .inr ⟨.index, legal, mode, sequence, triple, index⟩
  exact .inl ⟨legal, mode, sequence, triple, index⟩

/-- A command that has a next state has entered a fault from the state before it, or its checks have passed and its work
is done (R282, R283, R327). -/
theorem exec_next {i : Instr} {s t : State} (h : exec i s = .next t) : (∃ e, t = faultEntry e (encode i) s) ∨
    (ChecksPass i s ∧ ∃ u, work i s = .ok u ∧ t = { u with pc := s.pc + 1 }) := by
  rcases checksPass_or_firstFailure i s with checks | ⟨e, fails⟩
  · rw [exec_of_checksPass checks] at h
    rcases complete_next h with done | ⟨e, -, rfl⟩
    · exact .inr ⟨checks, done⟩
    · exact .inl ⟨e, rfl⟩
  · rw [exec_of_firstFailure fails] at h
    cases h
    exact .inl ⟨e, rfl⟩

/-! ### What the work can raise -/

/-- Work that raises no cause but E_RANGE. -/
def RaisesOnlyRange {α : Type} (r : Except Abort α) : Prop := ∀ e, r = .error (.raise e) → e = .range

theorem RaisesOnlyRange.ok {α : Type} (a : α) : RaisesOnlyRange (.ok a) := fun _ h => nomatch h

theorem RaisesOnlyRange.range {α : Type} : RaisesOnlyRange (.error (.raise .range) : Except Abort α) := by
  rintro _ ⟨⟩
  rfl

theorem RaisesOnlyRange.stuck {α : Type} {r : Except Abort α} {f : Fault} (h : ∀ a, r = .error a → a = .stuck f) :
    RaisesOnlyRange r := fun e raised => nomatch h (.raise e) raised

theorem RaisesOnlyRange.bind {α β : Type} {r : Except Abort α} {f : α → Except Abort β} (first : RaisesOnlyRange r)
    (rest : ∀ a, RaisesOnlyRange (f a)) : RaisesOnlyRange (r >>= f) := by
  intro e h
  cases r with
  | ok a => exact rest a e h
  | error x =>
    cases h
    exact first e rfl

theorem renormEnc_raises (s : State) : RaisesOnlyRange (renormEnc s) := .stuck fun _ => renormEncLoop_error

theorem renormDec_raises (s : State) : RaisesOnlyRange (renormDec s) := .stuck fun _ => renormDecLoop_error

theorem encStep_raises (lp hp sc : Nat) (s : State) : RaisesOnlyRange (encStep lp hp sc s) := by
  simp only [encStep]
  split
  · exact .range
  · exact renormEnc_raises _

theorem encodeFrom_raises (t : Table) (i : Nat) (s : State) : RaisesOnlyRange (encodeFrom t i s) := encStep_raises _ _ _ s

theorem decQuery_raises (sc : Nat) (s : State) : RaisesOnlyRange (decQuery sc s) := by
  simp only [decQuery]
  split
  · exact .range
  · exact .ok _

theorem search_raises (t : Table) (n f : Nat) (s : State) : RaisesOnlyRange (search t n f s) := by
  simp only [search]
  split
  · exact .ok _
  · split
    · exact .range
    · exact .ok _

theorem ppmEncCore_raises (sym : Byte) (s : State) : RaisesOnlyRange (ppmEncCore sym s) := by
  simp only [ppmEncCore]
  split
  · exact .bind (encodeFrom_raises _ _ _) fun _ => .ok _
  · refine .bind ?_ fun _ => .bind (encodeFrom_raises _ _ _) fun _ => .ok _
    rw [encEscape]
    split
    · exact .ok _
    · exact .bind (encodeFrom_raises _ _ _) fun _ => .ok _

theorem decodeFrom_raises (t : Table) (n : Nat) (s : State) : RaisesOnlyRange (decodeFrom t n s) :=
  .bind (decQuery_raises _ _) fun _ => .bind (search_raises _ _ _ _) fun _ => .bind (renormDec_raises _) fun _ => .ok _

theorem ppmDecCore_raises (s : State) : RaisesOnlyRange (ppmDecCore s) := by
  have order0 (c : BitVec 8) (s : State) : RaisesOnlyRange (decOrder0 c s) :=
    .bind (decodeFrom_raises _ _ _) fun _ => .ok _
  simp only [ppmDecCore]
  split
  · exact order0 _ _
  · refine .bind (decodeFrom_raises _ _ _) fun found => ?_
    split
    · exact order0 _ _
    · exact .ok _

/-- The commands that make a coder step with a scale or a sum of their own (R287). -/
def stepsCoder (i : Instr) : Prop := (∃ u, i = .acEnc u) ∨ (∃ u, i = .acDfreq u) ∨ (∃ u, i = .ppmEnc u) ∨
  (∃ u, i = .pixEnc u) ∨ i = .pixFlush ∨ i = .ppmDec ∨ i = .pixDec

/-- Past its checks a command raises no cause but E_RANGE, and that only in a coder step (R287). -/
theorem work_raises {i : Instr} {s : State} {e : Cause} (h : work i s = .error (.raise e)) :
    e = .range ∧ stepsCoder i := by
  cases i
  case nop | halt | ldl | ldh | cfg | rdreg | rdfreq | seek | limit | encInit | encFlush | decInit | decEnd | varEnc |
    varDec => cases h
  case acEnc => exact ⟨encStep_raises _ _ _ _ e h, by simp [stepsCoder]⟩
  case ppmEnc => exact ⟨ppmEncCore_raises _ _ e h, by simp [stepsCoder]⟩
  case acDfreq =>
    exact ⟨RaisesOnlyRange.bind (decQuery_raises _ _) (fun _ => .ok _) e h, by simp [stepsCoder]⟩
  case ppmDec =>
    exact ⟨RaisesOnlyRange.bind (ppmDecCore_raises _) (fun _ => .ok _) e h, by simp [stepsCoder]⟩
  case acDupd =>
    simp only [work] at h
    cases updated : decUpdate (oprLow s) (oprHigh s) s with
    | ok t => rw [updated] at h; cases h
    | error a =>
      obtain rfl : a = _ := renormDecLoop_error updated
      rw [updated] at h
      cases h
  case pixDec =>
    have refill : RaisesOnlyRange (refillUnpacker s) := by
      rw [refillUnpacker]
      split
      · exact .bind (ppmDecCore_raises s) fun _ => .ok _
      · exact .ok _
    exact ⟨RaisesOnlyRange.bind refill (fun _ => .ok _) e h, by simp [stepsCoder]⟩
  case pixEnc =>
    simp only [work] at h
    split at h
    · exact ⟨ppmEncCore_raises _ _ e h, by simp [stepsCoder]⟩
    · cases h
  case pixFlush =>
    simp only [work] at h
    split at h
    · cases h
    · exact ⟨ppmEncCore_raises _ _ e h, by simp [stepsCoder]⟩

/-- Settles O43: a command that completes advances PC, so the fault entry was made, by work that raised. -/
theorem passedChecksLeaveOnlyRange : Obligations.PassedChecksLeaveOnlyRange := by
  intro i s t checks running h faulted
  obtain ⟨pc, -⟩ := faultsArePreciseAndAtomic i s t running h faulted
  rw [exec_of_checksPass checks] at h
  rcases complete_next h with ⟨u, -, rfl⟩ | ⟨e, raised, rfl⟩
  · have : s.pc + 1 = s.pc := congrArg State.pc pc
    bv_omega
  · obtain ⟨rfl, coder⟩ := work_raises raised
    exact ⟨rfl, coder⟩

end Sys2Proof.Machine
end

section
/-! Everything a command can do past its checks, whatever the state (R28, R31 to R38): the parts it writes, the bytes and
words it puts out, and the flags it can set. -/

namespace Sys2Proof.Machine

/-! ### Reads set PASTEND and do not clear it -/

theorem inReads_sticky (n : Nat) (s : State) : ∃ (inptr : Word) (past : Bool),
    (inReads n s).2 = { s with inptr := inptr, pastend := s.pastend || past } := by
  induction n generalizing s with
  | zero => exact ⟨s.inptr, false, by rw [Bool.or_false]; rfl⟩
  | succ n ih =>
    obtain ⟨inptr, past, reads⟩ := ih (afterRead s)
    refine ⟨inptr, decide (inputEnd s ≤ s.inptr.toNat) || past, ?_⟩
    rw [inReads, inRead_snd, reads, ← Bool.or_assoc]
    rfl

theorem varintRead_sticky (s : State) : ∃ (inptr : Word) (past dropped : Bool), (varintRead 5 0 s).2 =
    { s with inptr := inptr, pastend := s.pastend || past, vovf := s.vovf || dropped } := by
  obtain ⟨bs, last, t, reads, -, -, -, read⟩ := varintRead_spec (n := 4) (k := 0) rfl (low := 0) (by decide) s
  obtain ⟨inptr, past, state⟩ := inReads_sticky (bs.length + 1) s
  rw [reads] at state
  obtain rfl : t = _ := state
  exact ⟨inptr, past, _, congrArg Prod.snd read⟩

/-! ### The symbol procedures -/

/-- The model registers of `m`, the rest of `s`. -/
def withModel (m s : State) : State :=
  { s with tables := m.tables, order0 := m.order0, freqmax := m.freqmax, ctxid := m.ctxid }

theorem CodedModel.withModel {sym : Byte} {s m : State} (h : CodedModel sym s m) : m = withModel m s := by
  conv_lhs => rw [h.eq]
  rw [Machine.withModel, h.eq]

/-- `m` is the model of `s` after encoding `sym`: from the context if that holds the symbol, else from the order-0
table (R227). -/
def EncodedModel (sym : Byte) (s m : State) : Prop :=
  ((readTable (ctxIndex s) s).sum ≠ 0 ∧ (readTable (ctxIndex s) s).count sym.toNat ≠ 0 ∧ m = hitModel sym s) ∨
  (((readTable (ctxIndex s) s).sum = 0 ∨ (readTable (ctxIndex s) s).count sym.toNat = 0) ∧ m = novelModel sym s)

theorem EncodedModel.coded {sym : Byte} {s m : State} (h : EncodedModel sym s m) : CodedModel sym s m :=
  h.imp (fun ⟨nonempty, _, hit⟩ => ⟨nonempty, hit⟩) And.right

theorem encodeFrom_shape {t : Table} {i : Nat} {s u : State} (h : encodeFrom t i s = .ok u) :
    ∃ (low' range' : Word) (bs : List Byte), bs.length ≤ 3 ∧ u = setCoder low' range' (outWrites bs s) := by
  obtain ⟨-, bs, loop, step⟩ := encStep_ok h
  exact ⟨_, _, bs, loop.length_le, step⟩

theorem encEscape_shape {s u : State} (h : encEscape (ctxIndex s) s = .ok u) :
    ∃ (low' range' : Word) (bs : List Byte), bs.length ≤ 3 ∧
      u = setCoder low' range' (outWrites bs (escapedContext s)) := by
  unfold encEscape at h
  split at h
  · next empty =>
    cases h
    exact ⟨s.low, s.range, [], Nat.zero_le _, by rw [escapedContext_of_empty empty]; rfl⟩
  · next nonempty =>
    obtain ⟨s1, codes, h⟩ := bind_ok h
    cases h
    obtain ⟨low', range', bs, few, rfl⟩ := encodeFrom_shape codes
    refine ⟨low', range', bs, few, ?_⟩
    rw [escapedContext_of_nonempty nonempty, outWrites_state, outWrites_state]
    rfl

/-- What encoding a symbol leaves (R227). -/
theorem ppmEncCore_shape {sym : Byte} {s u : State} (h : ppmEncCore sym s = .ok u) :
    ∃ (m : State) (low' range' : Word) (bs : List Byte), EncodedModel sym s m ∧ bs.length ≤ 6 ∧
      u = setCoder low' range' (outWrites bs m) := by
  rcases ppmEncCore_ok h with ⟨hit, s1, codes, rfl⟩ | ⟨miss, s1, s2, escapes, codes, rfl⟩
  · obtain ⟨low', range', bs, few, rfl⟩ := encodeFrom_shape codes
    rw [hits, Bool.and_eq_true, bne_iff_ne, bne_iff_ne] at hit
    refine ⟨hitModel sym s, low', range', bs, .inl ⟨hit.1, hit.2, rfl⟩, few.trans (by decide), ?_⟩
    rw [outWrites_state, outWrites_state]
    rfl
  · obtain ⟨low1, range1, bs1, few1, rfl⟩ := encEscape_shape escapes
    obtain ⟨low', range', bs2, few2, rfl⟩ := encodeFrom_shape codes
    have held : (readTable (ctxIndex s) s).sum = 0 ∨ (readTable (ctxIndex s) s).count sym.toNat = 0 := by
      simpa [hits, Decidable.imp_iff_not_or] using miss
    refine ⟨novelModel sym s, low', range', bs1 ++ bs2, .inr ⟨held, rfl⟩, ?_, ?_⟩
    · rw [List.length_append]
      exact Nat.add_le_add few1 few2
    · rw [novelModel, outWrites_append, outWrites_noteSymbol, outWrites_noteSymbol, setCoder_noteSymbol,
        outWrites_setCoder, setCoder_setCoder]
      rfl

theorem decodeFrom_shape {t : Table} {n i : Nat} {s u : State} (counts : n ≤ 257) (h : decodeFrom t n s = .ok (i, u)) :
    i < n ∧ ∃ (low' range' : Word) (k : Nat) (overran : Bool), k ≤ 3 ∧
      u = setCoder low' range' (shiftCodes k (markOvr overran s)) := by
  obtain ⟨f, s1, s2, lp, hp, query, found, update⟩ := decodeFrom_ok h
  obtain ⟨-, -, rfl⟩ := decQuery_ok query
  obtain ⟨index, -, -, -, outcome⟩ := search_ok counts found
  obtain ⟨bs, loop, step⟩ := decUpdate_ok update
  have marked : ∃ overran, s2 = setCoder s.low (BitVec.ofNat 32 (s.range.toNat / t.sum.toNat)) (markOvr overran s) := by
    rcases outcome with ⟨rfl, -⟩ | ⟨rfl, -⟩
    · exact ⟨false, by rw [markOvr_false]; rfl⟩
    · exact ⟨true, by rw [markOvr_true]; rfl⟩
  obtain ⟨overran, rfl⟩ := marked
  rw [shiftCodes_setCoder, setCoder_setCoder] at step
  exact ⟨index, _, _, bs.length, overran, loop.length_le, step⟩

theorem decOrder0_shape {c : BitVec 8} {sym : Byte} {s u : State} (h : decOrder0 c s = .ok (sym, u)) :
    ∃ (low' range' : Word) (k : Nat) (overran : Bool), k ≤ 3 ∧
      u = setCoder low' range' (shiftCodes k (markOvr overran (noteSymbol c sym s))) := by
  obtain ⟨i, s1, decodes, -, rfl⟩ := decOrder0_ok h
  obtain ⟨-, low', range', k, overran, few, rfl⟩ := decodeFrom_shape (by decide) decodes
  refine ⟨low', range', k, overran, few, ?_⟩
  rw [show markOvr overran (noteSymbol c sym s) = noteSymbol c sym (markOvr overran s) from rfl, shiftCodes_noteSymbol]
  rfl

/-- What decoding a symbol leaves (R228). -/
theorem ppmDecCore_shape {sym : Byte} {s u : State} (h : ppmDecCore s = .ok (sym, u)) :
    ∃ (m : State) (low' range' : Word) (n : Nat) (overran : Bool), CodedModel sym s m ∧
      u = decoded low' range' n overran m := by
  rcases ppmDecCore_ok h with ⟨empty, notes⟩ | ⟨nonempty, i, s1, decodes, ⟨-, notes⟩ | ⟨other, rfl, rfl⟩⟩
  · obtain ⟨low', range', k, overran, -, rfl⟩ := decOrder0_shape notes
    exact ⟨novelModel sym s, low', range', k, overran, .inr rfl, by
      rw [novelModel, escapedContext_of_empty empty, decoded]⟩
  · obtain ⟨-, low1, range1, m, a, -, rfl⟩ := decodeFrom_shape le_rfl decodes
    obtain ⟨low', range', n, b, -, rfl⟩ := decOrder0_shape notes
    refine ⟨novelModel sym s, low', range', m + n, a || b, .inr rfl, ?_⟩
    have escaped : escapeTable (ctxIndex s) (setCoder low1 range1 (shiftCodes m (markOvr a s))) =
        setCoder low1 range1 (markOvr a (escapeTable (ctxIndex s) (shiftCodes m s))) := by
      rw [shiftCodes_markOvr]
      rfl
    rw [escaped, novelModel, escapedContext_of_nonempty nonempty, decoded]
    exact decoded_twice ..
  · obtain ⟨index, low', range', k, overran, -, rfl⟩ := decodeFrom_shape le_rfl decodes
    refine ⟨hitModel (BitVec.ofNat 8 i) s, low', range', k, overran, .inl ⟨nonempty, rfl⟩, ?_⟩
    rw [decoded, hitModel, shiftCodes_markOvr, shiftCodes_markOvr, shiftCodes_pushCtx, shiftCodes_updateTable]
    rfl

/-! ### Every command -/

/-- `Did s i u`: what the work of command `i` on state `s` can have done where it leaves `u`. -/
inductive Did (s : State) : Instr → State → Prop
  | nop : Did s .nop s
  | halt : Did s .halt { s with rstate := .done }
  | ldl (u16 : BitVec 16) (opr : Word) : Did s (.ldl u16) { s with opr := opr }
  | ldh (u16 : BitVec 16) (opr : Word) : Did s (.ldh u16) { s with opr := opr }
  | cfg (u8 : BitVec 8) : Did s (.cfg u8) { s with palsz := u8 }
  | rdreg (reg : BitVec 5) (w : Word) : Did s (.rdreg reg) { s with res := s.res ++ [w] }
  | rdfreq (S O : Bool) (i : BitVec 9) (c : BitVec 8) (w : Word) : Did s (.rdfreq S O i c) { s with res := s.res ++ [w] }
  | seek (inptr : Word) : Did s .seek { s with inptr := inptr }
  | limit (inlim : Word) : Did s .limit { s with inlim := inlim }
  | encInit : Did s .encInit (initCoderModel .enc s)
  | encFlush (low : Word) (bs : List Byte) : bs.length ≤ 6 → Did s .encFlush { s with
      low := low, out := s.out ++ bs, outcnt := s.outcnt + BitVec.ofNat 32 bs.length, mode := .idle }
  | acEnc (u16 : BitVec 16) (low range : Word) (bs : List Byte) : bs.length ≤ 6 → Did s (.acEnc u16) { s with
      low := low, range := range, out := s.out ++ bs, outcnt := s.outcnt + BitVec.ofNat 32 bs.length }
  | ppmEnc (sym : Byte) (m : State) (low range : Word) (bs : List Byte) : EncodedModel sym s m → bs.length ≤ 6 →
      Did s (.ppmEnc sym) { withModel m s with
        low := low, range := range, out := s.out ++ bs, outcnt := s.outcnt + BitVec.ofNat 32 bs.length }
  | pixEncRoom (idx : BitVec 8) : (s.pcnt + 1).toNat ≠ indicesPerByte s →
      Did s (.pixEnc idx) { s with pacc := packedWith idx s, pcnt := s.pcnt + 1 }
  | pixEncFull (idx : BitVec 8) (sym : Byte) (m : State) (low range : Word) (bs : List Byte) :
      EncodedModel sym s m → bs.length ≤ 6 → Did s (.pixEnc idx) { withModel m s with
        low := low, range := range, out := s.out ++ bs, outcnt := s.outcnt + BitVec.ofNat 32 bs.length
        pacc := 0, pcnt := 0 }
  | pixFlushEmpty : Did s .pixFlush s
  | pixFlushPartial (sym : Byte) (m : State) (low range : Word) (bs : List Byte) :
      EncodedModel sym s m → bs.length ≤ 6 → Did s .pixFlush { withModel m s with
        low := low, range := range, out := s.out ++ bs, outcnt := s.outcnt + BitVec.ofNat 32 bs.length
        pacc := 0, pcnt := 0 }
  | decInit (code inptr : Word) (past : Bool) : Did s .decInit { initCoderModel .dec s with
      code := code, inptr := inptr, pastend := s.pastend || past }
  | decEnd : Did s .decEnd { s with mode := .idle, qpend := false, ubuf := 0, ucnt := 0 }
  | acDfreq (u16 : BitVec 16) (range f : Word) : Did s (.acDfreq u16) { s with
      range := range, qpend := true, qscale := u16, res := s.res ++ [f] }
  | acDupd (low range code inptr : Word) (past : Bool) : Did s .acDupd { s with
      low := low, range := range, code := code, inptr := inptr, pastend := s.pastend || past, qpend := false }
  | ppmDec (sym : Byte) (m : State) (low range code inptr : Word) (past overran : Bool) : CodedModel sym s m →
      Did s .ppmDec { withModel m s with
        low := low, range := range, code := code, inptr := inptr, pastend := s.pastend || past
        ovr := s.ovr || overran, res := s.res ++ [sym.setWidth 32] }
  | pixDecHeld (ubuf : Byte) (w : Word) : s.ucnt ≠ 0 → Did s .pixDec { s with
      ubuf := ubuf, ucnt := s.ucnt - 1, res := s.res ++ [w] }
  | pixDecRefilled (sym : Byte) (m : State) (low range code inptr : Word) (past overran : Bool) (ubuf : Byte)
      (w : Word) : CodedModel sym s m → Did s .pixDec { withModel m s with
        low := low, range := range, code := code, inptr := inptr, pastend := s.pastend || past
        ovr := s.ovr || overran, ubuf := ubuf, ucnt := BitVec.ofNat 4 (indicesPerByte s) - 1, res := s.res ++ [w] }
  | varEnc (bs : List Byte) : bs.length ≤ 6 → Did s .varEnc { s with
      out := s.out ++ bs, outcnt := s.outcnt + BitVec.ofNat 32 bs.length }
  | varDec (w inptr : Word) (past dropped : Bool) : Did s .varDec { s with
      inptr := inptr, pastend := s.pastend || past, vovf := s.vovf || dropped, res := s.res ++ [w] }

/-! ### The work as effects -/

theorem encoded_eq {sym : Byte} {s m : State} (h : CodedModel sym s m) (low range : Word) (bs : List Byte) :
    setCoder low range (outWrites bs m) = { withModel m s with
      low := low, range := range, out := s.out ++ bs, outcnt := s.outcnt + BitVec.ofNat 32 bs.length } := by
  rw [outWrites_state]
  conv_lhs => rw [h.withModel]
  rfl

theorem decoded_shape {sym : Byte} {s m : State} (h : CodedModel sym s m) (low range : Word) (n : Nat)
    (overran : Bool) : ∃ (code inptr : Word) (past : Bool), decoded low range n overran m = { withModel m s with
      low := low, range := range, code := code, inptr := inptr, pastend := s.pastend || past
      ovr := s.ovr || overran } := by
  obtain ⟨inptr, past, reads⟩ := inReads_sticky n s
  refine ⟨codeAfter s.code (inReads n s).1, inptr, past, ?_⟩
  rw [decoded_eq h.sameInput, reads]
  conv_lhs => rw [h.withModel]
  rfl

/-- The model of an encoder does not see the packer. -/
theorem EncodedModel.of_emptyPacker {sym : Byte} {s m : State} (h : EncodedModel sym (emptyPacker s) m) :
    ∃ m', EncodedModel sym s m' ∧ m = emptyPacker m' := by
  rcases h with ⟨nonempty, held, rfl⟩ | ⟨miss, rfl⟩
  · exact ⟨hitModel sym s, .inl ⟨nonempty, held, rfl⟩, rfl⟩
  · refine ⟨novelModel sym s, .inr ⟨miss, rfl⟩, ?_⟩
    by_cases empty : (readTable (ctxIndex s) s).sum = 0
    · rw [novelModel, novelModel, escapedContext_of_empty empty, escapedContext_of_empty (s := emptyPacker s) empty]
      rfl
    · rw [novelModel, novelModel, escapedContext_of_nonempty empty, escapedContext_of_nonempty (s := emptyPacker s) empty]
      rfl

theorem encodePacked_shape {sym : Byte} {s u : State} (h : encodePacked sym s = .ok u) :
    ∃ (m : State) (low range : Word) (bs : List Byte), EncodedModel sym s m ∧ bs.length ≤ 6 ∧
      u = { withModel m s with
        low := low, range := range, out := s.out ++ bs, outcnt := s.outcnt + BitVec.ofNat 32 bs.length
        pacc := 0, pcnt := 0 } := by
  rw [encodePacked_eq] at h
  obtain ⟨m, low, range, bs, model, few, rfl⟩ := ppmEncCore_shape h
  obtain ⟨m', model', rfl⟩ := model.of_emptyPacker
  refine ⟨m', low, range, bs, model', few, ?_⟩
  rw [encoded_eq model.coded]
  rfl

/-- The work of every command does what `Did` lists. -/
theorem did_of_work {i : Instr} {s u : State} (h : work i s = .ok u) : Did s i u := by
  cases i
  case nop => cases h; exact .nop
  case halt => cases h; exact .halt
  case ldl => cases h; exact .ldl ..
  case ldh => cases h; exact .ldh ..
  case cfg => cases h; exact .cfg ..
  case rdreg => cases h; exact .rdreg ..
  case rdfreq => cases h; exact .rdfreq ..
  case seek => cases h; exact .seek ..
  case limit => cases h; exact .limit ..
  case encInit => cases h; exact .encInit
  case decEnd => cases h; exact .decEnd
  case encFlush =>
    cases h
    rw [flushBytes]
    exact .encFlush 0 [_, _, _, _] (Nat.le_of_ble_eq_true rfl)
  case varEnc =>
    cases h
    have length := (varintBytes_five s.opr).length_eq s.opr.isLt
    rw [outWrites_state]
    exact .varEnc _ (by split_ifs at length <;> omega)
  case varDec =>
    cases h
    obtain ⟨inptr, past, dropped, reads⟩ := varintRead_sticky s
    rw [reads]
    exact .varDec ..
  case decInit =>
    cases h
    obtain ⟨inptr, past, reads⟩ := inReads_sticky 4 (initCoderModel .dec s)
    rw [reads]
    exact .decInit ..
  case acEnc =>
    obtain ⟨-, bs, loop, step⟩ := encStep_ok h
    rw [step, outWrites_state]
    exact .acEnc _ _ _ _ (loop.length_le.trans (by decide))
  case ppmEnc =>
    obtain ⟨m, low, range, bs, model, few, rfl⟩ := ppmEncCore_shape h
    rw [encoded_eq model.coded]
    exact .ppmEnc _ _ _ _ _ model few
  case pixEnc =>
    rw [work] at h
    split at h
    · obtain ⟨m, low, range, bs, model, few, rfl⟩ := encodePacked_shape h
      exact .pixEncFull _ _ _ _ _ _ model few
    · next room =>
      cases h
      exact .pixEncRoom _ room
  case pixFlush =>
    rw [work] at h
    split at h
    · cases h
      exact .pixFlushEmpty
    · obtain ⟨m, low, range, bs, model, few, rfl⟩ := encodePacked_shape h
      exact .pixFlushPartial _ _ _ _ _ model few
  case acDfreq =>
    obtain ⟨⟨f, t⟩, query, h⟩ := bind_ok h
    cases h
    obtain ⟨-, -, rfl⟩ := decQuery_ok query
    exact .acDfreq ..
  case acDupd =>
    obtain ⟨t, update, h⟩ := bind_ok h
    cases h
    obtain ⟨bs, -, step⟩ := decUpdate_ok update
    obtain ⟨inptr, past, reads⟩ := inReads_sticky bs.length s
    rw [step, shiftCodes, reads]
    exact .acDupd ..
  case ppmDec =>
    obtain ⟨⟨sym, t⟩, decodes, h⟩ := bind_ok h
    cases h
    obtain ⟨m, low, range, n, overran, model, rfl⟩ := ppmDecCore_shape decodes
    obtain ⟨code, inptr, past, state⟩ := decoded_shape model low range n overran
    rw [state]
    exact .ppmDec sym m low range code inptr past overran model
  case pixDec =>
    obtain ⟨t, filled, h⟩ := bind_ok h
    cases h
    rw [takeIndex_eq]
    unfold refillUnpacker at filled
    split at filled
    · obtain ⟨⟨sym, t⟩, decodes, filled⟩ := bind_ok filled
      cases filled
      obtain ⟨m, low, range, n, overran, model, rfl⟩ := ppmDecCore_shape decodes
      obtain ⟨code, inptr, past, state⟩ := decoded_shape model low range n overran
      rw [state]
      exact .pixDecRefilled sym m low range code inptr past overran _ _ model
    · next held =>
      cases filled
      exact .pixDecHeld _ _ held

/-- Everything a command can do that has a next state: enter a fault from the state before it, or pass its checks, do its
work and advance PC (R282, R283, R327). -/
theorem did_of_exec {i : Instr} {s t : State} (h : exec i s = .next t) : (∃ e, t = faultEntry e (encode i) s) ∨
    (ChecksPass i s ∧ ∃ u, Did s i u ∧ t = { u with pc := s.pc + 1 }) :=
  (exec_next h).imp_right fun ⟨checks, u, done, after⟩ => ⟨checks, u, did_of_work done, after⟩

end Sys2Proof.Machine
end

section
/-! Who writes what, and what only grows (R20, R22 to R24, R26 to R38, R64, R66, R67, R79, R289, R331). -/

namespace Sys2Proof.Machine

/-- Settles O46: by `Did`, a flag is or-ed with what the command sees. -/
theorem stickyFlagsStaySet : Obligations.StickyFlagsStaySet := by
  intro i s t h
  rcases did_of_exec h with ⟨e, rfl⟩ | ⟨-, u, did, rfl⟩
  · exact ⟨id, id, id⟩
  cases did
  case decInit | acDupd => exact ⟨id, id, by simp +contextual⟩
  case ppmDec | pixDecRefilled => exact ⟨by simp +contextual, id, by simp +contextual⟩
  case varDec => exact ⟨id, by simp +contextual, by simp +contextual⟩
  all_goals exact ⟨id, id, id⟩

/-- Settles O47: by `Did`, each command appends a list of bytes and a list of words, empty if the command writes none. -/
theorem outputsOnlyGrow : Obligations.OutputsOnlyGrow := by
  intro i s t h
  have no_bytes : s.outcnt = s.outcnt + BitVec.ofNat 32 ([] : List Byte).length := (BitVec.add_zero _).symm
  rcases did_of_exec h with ⟨e, rfl⟩ | ⟨-, u, did, rfl⟩
  · exact ⟨[], [], (List.append_nil _).symm, Nat.zero_le _, no_bytes, (List.append_nil _).symm, Nat.zero_le _⟩
  cases did
  case encFlush bs few | acEnc bs few | ppmEnc bs _ few | pixEncFull bs _ few | pixFlushPartial bs _ few |
    varEnc bs few =>
    exact ⟨bs, [], rfl, few, rfl, (List.append_nil _).symm, Nat.zero_le _⟩
  case rdreg w | rdfreq w | acDfreq w | pixDecHeld w _ | pixDecRefilled w _ | varDec w _ _ _ =>
    exact ⟨[], [w], (List.append_nil _).symm, Nat.zero_le _, no_bytes, rfl, le_rfl⟩
  case ppmDec sym _ _ _ _ _ _ _ _ =>
    exact ⟨[], [sym.setWidth 32], (List.append_nil _).symm, Nat.zero_le _, no_bytes, rfl, le_rfl⟩
  all_goals exact ⟨[], [], (List.append_nil _).symm, Nat.zero_le _, no_bytes, (List.append_nil _).symm, Nat.zero_le _⟩

/-- Settles O48: each effect of `Did` against the table of the command. -/
theorem commandsWriteOnlyTheirRegisters : Obligations.CommandsWriteOnlyTheirRegisters := by
  intro i s t h
  rcases did_of_exec h with ⟨e, rfl⟩ | ⟨-, u, did, rfl⟩
  · simp
  cases did <;> simp [mayWrite, initialised, withModel]

end Sys2Proof.Machine
end

section
/-! What every step keeps, whatever the input: the order-0 table, the packer and the unpacker, the fault registers and
the launch facts, an encoder's context tables (R41, R24, R12). -/

namespace Sys2Proof.Machine

/-! ### The order-0 table -/

/-- The order-0 table after a symbol is the old one or UPDATEd. -/
theorem CodedModel.order0 {sym : Byte} {s m : State} (h : CodedModel sym s m) (ok : Order0Ok s) :
    Order0Table m.order0 := by
  rw [order0Ok_iff] at ok
  rcases h with ⟨-, rfl⟩ | rfl
  · exact ok
  · rw [novelModel_eq]
    exact ok.updated (by omega) s.freqmax

theorem Order0Ok.exec {i : Instr} {s t : State} (ok : Order0Ok s) (h : exec i s = .next t) : Order0Ok t := by
  rcases did_of_exec h with ⟨e, rfl⟩ | ⟨-, u, did, rfl⟩
  · exact ok
  cases did
  case encInit | decInit => exact order0Table_ones
  case ppmEnc model _ | pixEncFull model _ | pixFlushPartial model _ => exact model.coded.order0 ok
  case ppmDec model | pixDecRefilled model => exact model.order0 ok
  all_goals exact ok

/-- Settles O54. -/
theorem everyStepKeepsOrder0 : Obligations.EveryStepKeepsOrder0 := by
  intro s s' ok h
  cases stepped_of_step h
  case command runs => exact Order0Ok.exec (s := dropTurn s) ok runs
  case resetDone => exact order0Table_ones
  all_goals exact ok

/-! ### The packer and the unpacker -/

theorem packerOk_of_empty {s : State} (pcnt : s.pcnt = 0) (pacc : s.pacc = 0) (ucnt : s.ucnt = 0) : PackerOk s := by
  have some := (indicesPerByte_bounds s).1
  rw [PackerOk, pcnt, pacc, ucnt]
  exact ⟨some, some, Nat.two_pow_pos _, fun other => absurd rfl other, fun other => absurd rfl other⟩

theorem PackerOk.pcnt_eq_zero {s : State} (ok : PackerOk s) (other : s.mode ≠ .enc) : s.pcnt = 0 := by
  obtain ⟨-, -, -, enc, -⟩ := ok
  by_contra packed
  exact other (enc packed)

theorem PackerOk.pacc_eq_zero {s : State} (ok : PackerOk s) (empty : s.pcnt = 0) : s.pacc = 0 := by
  obtain ⟨-, -, below, -, -⟩ := ok
  rw [empty] at below
  exact BitVec.eq_of_toNat_eq (by simpa using below)

theorem PackerOk.ucnt_eq_zero {s : State} (ok : PackerOk s) (other : s.mode ≠ .dec) : s.ucnt = 0 := by
  obtain ⟨-, -, -, -, dec⟩ := ok
  by_contra held
  exact other (dec held)

theorem PackerOk.exec {i : Instr} {s t : State} (ok : PackerOk s) (h : exec i s = .next t) : PackerOk t := by
  rcases did_of_exec h with ⟨e, rfl⟩ | ⟨⟨-, mode, sequence, -, index⟩, u, did, rfl⟩
  · exact ok
  cases did
  case encInit | decInit => exact packerOk_of_empty rfl rfl rfl
  case cfg =>
    have idle : s.mode = .idle := mode _ rfl
    have empty := ok.pcnt_eq_zero (by simp [idle])
    exact packerOk_of_empty empty (ok.pacc_eq_zero empty) (ok.ucnt_eq_zero (by simp [idle]))
  case encFlush =>
    have enc : s.mode = .enc := mode _ rfl
    have empty : s.pcnt = 0 := not_not.mp sequence
    exact packerOk_of_empty empty (ok.pacc_eq_zero empty) (ok.ucnt_eq_zero (by simp [enc]))
  case pixEncFull | pixFlushPartial =>
    have enc : s.mode = .enc := mode _ rfl
    exact packerOk_of_empty rfl rfl (ok.ucnt_eq_zero (by simp [enc]))
  case pixEncRoom idx room =>
    have enc : s.mode = .enc := mode _ rfl
    obtain ⟨slot, unpacker, below, -, dec⟩ := ok
    have next := pcnt_succ_toNat (Nat.succ_le_of_lt slot)
    refine ⟨?_, unpacker, ?_, fun _ => enc, dec⟩
    · change (s.pcnt + 1).toNat < indicesPerByte s
      omega
    · change (packedWith idx s).toNat < 2 ^ ((s.pcnt + 1).toNat * bitsPerIndex s)
      rw [next]
      exact packedWith_lt slot below index
  case decEnd =>
    have dec : s.mode = .dec := mode _ rfl
    have empty := ok.pcnt_eq_zero (by simp [dec])
    exact packerOk_of_empty empty (ok.pacc_eq_zero empty) rfl
  case pixDecHeld held =>
    have dec : s.mode = .dec := mode _ rfl
    obtain ⟨slot, unpacker, below, enc, -⟩ := ok
    refine ⟨slot, ?_, below, enc, fun _ => dec⟩
    change (s.ucnt - 1).toNat < indicesPerByte s
    bv_omega
  case pixDecRefilled =>
    have dec : s.mode = .dec := mode _ rfl
    obtain ⟨slot, -, below, enc, -⟩ := ok
    refine ⟨slot, ?_, below, enc, fun _ => dec⟩
    change (BitVec.ofNat 4 (indicesPerByte s) - 1).toNat < indicesPerByte s
    have := indicesPerByte_bounds s
    bv_omega
  all_goals exact ok

/-- Settles O55. -/
theorem everyStepKeepsThePacker : Obligations.EveryStepKeepsThePacker := by
  intro s s' ok h
  cases stepped_of_step h
  case command runs => exact PackerOk.exec (s := dropTurn s) ok runs
  case resetDone => exact packerOk_of_empty rfl rfl rfl
  all_goals exact ok

/-! ### The fault registers and the launch facts -/

/-- Out of FAULT the fault registers are 0. -/
theorem FaultOk.zero {s : State} (ok : FaultOk s) (noFault : s.rstate ≠ .fault) :
    s.cause = 0 ∧ s.fpc = 0 ∧ s.fcmd = 0 := by
  obtain ⟨-, fault, zero⟩ := ok
  exact ⟨not_not.mp (mt fault.mpr noFault), zero noFault⟩

theorem faultOk_of_zero {s : State} (noFault : s.rstate ≠ .fault) (cause : s.cause = 0) (fpc : s.fpc = 0)
    (fcmd : s.fcmd = 0) : FaultOk s :=
  ⟨by rw [cause]; exact Nat.zero_le _, iff_of_false noFault (not_not.mpr cause), fun _ => ⟨fpc, fcmd⟩⟩

theorem faultOk_faultEntry (e : Cause) (w : Word) (s : State) : FaultOk (faultEntry e w s) := by
  obtain ⟨low, high⟩ := e.code_bounds
  refine ⟨high, iff_of_true rfl fun zero => ?_, fun noFault => absurd rfl noFault⟩
  have zero : e.code = 0 := zero
  rw [zero] at low
  exact absurd low (by decide)

/-- In a run a command advances PC to at most the end of the list. -/
theorem LaunchOk.exec {i : Instr} {s t : State} (run : s.rstate = .run) (fault : FaultOk s) (launch : LaunchOk s)
    (fetched : s.pc.toNat < s.cmd.length) (h : exec i s = .next t) : FaultOk t ∧ LaunchOk t := by
  obtain ⟨short, shortIn, inRun⟩ := launch
  obtain ⟨-, inlen⟩ := inRun run
  obtain ⟨cmd, inp, inlen', -, -, -, -, -, -, -, -, pc, rstate, causes, -⟩ := commandsWriteOnlyTheirRegisters i s t h
  by_cases faulted : t.rstate = .fault
  · obtain ⟨e, rfl⟩ := (rstate_or_fault_of_exec (by rintro rfl; cases h; cases faulted) h).resolve_left
      (by rw [faulted, run]; decide)
    exact ⟨faultOk_faultEntry .., short, shortIn, fun again => nomatch again⟩
  · obtain ⟨cause, fpc, fcmd⟩ := causes faulted
    obtain ⟨zeroCause, zeroFpc, zeroFcmd⟩ := fault.zero (by simp [run])
    have next : t.pc = s.pc + 1 := pc.resolve_right fun stays => faulted stays.2
    refine ⟨faultOk_of_zero faulted (cause.trans zeroCause) (fpc.trans zeroFpc) (fcmd.trans zeroFcmd), ?_⟩
    rw [LaunchOk, cmd, inp, inlen', next]
    exact ⟨short, shortIn, fun _ => ⟨by bv_omega, inlen⟩⟩

/-- Settles O56. -/
theorem everyStepKeepsFaultAndLaunchRegisters : Obligations.EveryStepKeepsFaultAndLaunchRegisters := by
  intro s s' fault launch h
  cases stepped_of_step h
  case command fetches _ runs =>
    obtain ⟨run, -, -, fetch⟩ := fetches
    exact LaunchOk.exec (s := dropTurn s) run fault launch (List.getElem?_eq_some_iff.mp fetch).1 runs
  case illegal => exact ⟨faultOk_faultEntry .., launch.1, launch.2.1, fun again => nomatch again⟩
  case listEnd run =>
    obtain ⟨cause, fpc, fcmd⟩ := fault.zero (by simp [run])
    exact ⟨faultOk_of_zero (by simp) cause fpc fcmd, launch.1, launch.2.1, fun again => nomatch again⟩
  case started idle =>
    obtain ⟨cause, fpc, fcmd⟩ := fault.zero (by rcases idle with ready | done <;> simp [*])
    exact ⟨faultOk_of_zero (by simp) cause fpc fcmd, launch.1, launch.2.1,
      fun _ => ⟨Nat.zero_le _, (BitVec.toNat_ofNat ..).trans (Nat.mod_eq_of_lt launch.2.1)⟩⟩
  case resetDone =>
    exact ⟨faultOk_of_zero (by simp [resetBlock, State.reset]) rfl rfl rfl, launch.1, launch.2.1,
      fun again => nomatch again⟩
  case cmdLoaded notRun short => exact ⟨fault, short, launch.2.1, fun run => absurd run notRun⟩
  case inputLoaded notRun short => exact ⟨fault, launch.1, short, fun run => absurd run notRun⟩
  all_goals exact ⟨fault, launch⟩

/-! ### The context tables of an encoder -/

theorem CodedModel.wf {sym : Byte} {s m : State} (h : CodedModel sym s m) (wf : ContextMem.wf s.tables) :
    ContextMem.wf m.tables := by
  rcases h with ⟨-, rfl⟩ | rfl
  · exact hitModel_wf wf sym
  · exact novelModel_wf wf sym

/-- Encoding a symbol keeps the tables exact (R232 items 2 to 4). -/
theorem EncodedModel.exact {sym : Byte} {s m : State} (h : EncodedModel sym s m) (wf : ContextMem.wf s.tables)
    (tables : ∀ c, TableExact (readTable c s)) (c : BitVec 8) : TableExact (readTable c m) := by
  by_cases other : c ≠ ctxIndex s
  · rw [h.coded.others wf other]
    exact tables c
  obtain rfl := not_not.mp other
  have context := tables (ctxIndex s)
  rcases h with ⟨nonempty, held, rfl⟩ | ⟨miss, rfl⟩
  · rw [readTable_hitModel wf]
    exact context.updated (by omega) nonempty held _
  · rw [readTable_novelModel wf]
    by_cases empty : (readTable (ctxIndex s) s).sum = 0
    · rw [if_pos empty]
      exact context.novel_of_empty (by omega) empty
    · rw [if_neg empty]
      exact context.escaped_novel (by omega) empty (miss.resolve_left empty)

theorem tableExact_empty : TableExact Table.empty := by
  refine ⟨?_, fun nonempty => absurd Table.empty_sum nonempty⟩
  have zeros : Table.empty.freq.toList = List.replicate 257 0 := Vector.toList_replicate ..
  rw [Table.empty_sum, Table.total, zeros, sumCounts_zero fun _ _ => List.getElem_replicate ..]
  rfl

/-- The context memory is canonical, and exact in ENC mode. -/
def EncoderTables (s : State) : Prop :=
  ContextMem.wf s.tables ∧ (s.mode = .enc → ∀ c, TableExact (readTable c s))

theorem encoderTables_of_nil {s : State} (nil : s.tables = []) : EncoderTables s := by
  refine ⟨?_, fun _ c => ?_⟩
  · rw [nil]
    exact ⟨List.Pairwise.nil, fun _ none => nomatch none⟩
  · rw [readTable_of_tables_nil nil]
    exact tableExact_empty

theorem EncoderTables.exec {i : Instr} {s t : State} (ok : EncoderTables s) (h : exec i s = .next t) :
    EncoderTables t := by
  rcases did_of_exec h with ⟨e, rfl⟩ | ⟨⟨-, mode, -⟩, u, did, rfl⟩
  · exact ok
  obtain ⟨wf, exact_⟩ := id ok
  cases did
  case encInit | decInit => exact encoderTables_of_nil rfl
  case encFlush | decEnd => exact ⟨wf, fun enc => nomatch enc⟩
  case ppmEnc model _ | pixEncFull model _ | pixFlushPartial model _ =>
    exact ⟨model.coded.wf wf, fun enc => model.exact wf (exact_ enc)⟩
  case ppmDec model | pixDecRefilled model =>
    have dec : s.mode = .dec := mode _ rfl
    exact ⟨model.wf wf, fun enc => absurd (dec.symm.trans enc) (by decide)⟩
  all_goals exact ok

/-- Settles O57: the bound by `TableExact.sum_le`. -/
theorem everyStepKeepsEncoderTablesExact : Obligations.EveryStepKeepsEncoderTablesExact := by
  refine ⟨fun t => TableExact.sum_le, fun s s' wf exact_ h => ?_⟩
  have ok : EncoderTables s := ⟨wf, exact_⟩
  cases stepped_of_step h
  case command runs => exact EncoderTables.exec (s := dropTurn s) ok runs
  case resetDone => exact encoderTables_of_nil rfl
  all_goals exact ok

end Sys2Proof.Machine
end

section
/-! What every step keeps together, encoding and decoding any input, and that no step gets stuck (R41, R232, R328). -/

namespace Sys2Proof.Machine

/-! ### The coder through the work of a command -/

theorem coderOk_of_settled {s : State} (noQuery : s.qpend = false) (large : 2 ^ 14 ≤ s.range.toNat)
    (inside : s.low.toNat + s.range.toNat ≤ 2 ^ 32) : CoderOk s :=
  ⟨fun _ _ => ⟨large, inside⟩, fun pending => absurd (noQuery.symm.trans pending) (by decide)⟩

/-- The whole interval of R36. -/
theorem coderOk_of_init {s : State} (noQuery : s.qpend = false) (low : s.low = 0) (range : s.range = 0xFFFFFFFF) :
    CoderOk s :=
  coderOk_of_settled noQuery (by rw [range]; decide) (by rw [low, range]; decide)

theorem coderOk_of_idle {s : State} (idle : s.mode = .idle) (noQuery : s.qpend = false) : CoderOk s :=
  ⟨fun inUse => absurd idle inUse, fun pending => absurd (noQuery.symm.trans pending) (by decide)⟩

/-- The work answers and leaves the coder in order, or divides to 0. -/
def AnswersOrDivides (r : Except Abort State) : Prop := (∃ u, r = .ok u ∧ CoderOk u) ∨ r = .error (.raise .range)

section
variable {s : State} (ok : CoderOk s) (order0 : Order0Ok s) (sound : TableSound (readTable (ctxIndex s) s))

include ok order0 sound

theorem ppmEncCore_outcome (enc : s.mode = .enc) (sym : Byte) : AnswersOrDivides (ppmEncCore sym s) := by
  obtain ⟨large, inside⟩ := ok.encoder enc
  by_cases covered : (readTable (ctxIndex s) s).sum.toNat ≤ s.range.toNat
  · obtain ⟨low', range', bs, m, model, large', inside', codes⟩ :=
      ppmEncCore_answers sound order0 covered large inside sym
    rw [encoded_eq model] at codes
    exact .inl ⟨_, codes, coderOk_of_settled (ok.no_query enc) large' inside'⟩
  · exact .inr (ppmEncCore_of_lt (Nat.lt_of_not_le covered) sym)

theorem ppmDecCore_outcome (dec : s.mode = .dec) (noQuery : s.qpend = false) :
    (∃ sym u, ppmDecCore s = .ok (sym, u) ∧ CoderOk u) ∨ ppmDecCore s = .error (.raise .range) := by
  obtain ⟨large, inside⟩ := ok.settled (by simp [dec]) noQuery
  by_cases covered : (readTable (ctxIndex s) s).sum.toNat ≤ s.range.toNat
  · obtain ⟨sym, low', range', n, overran, m, model, -, large', inside', decodes⟩ :=
      ppmDecCore_answers sound order0 covered large inside
    obtain ⟨code, inptr, past, state⟩ := decoded_shape model low' range' n overran
    rw [state] at decodes
    exact .inl ⟨sym, _, decodes, coderOk_of_settled noQuery large' inside'⟩
  · exact .inr (ppmDecCore_of_lt (Nat.lt_of_not_le covered))

/-- Past its checks every command answers with the coder in order, or divides to 0 in a coder step (R185, R287). -/
theorem work_outcome {i : Instr} (checks : ChecksPass i s) : AnswersOrDivides (work i s) := by
  obtain ⟨-, mode, sequence, triple, -⟩ := checks
  cases i
  case nop | halt | ldl | ldh | cfg | rdreg | rdfreq | seek | limit => exact .inl ⟨_, rfl, ok⟩
  case varEnc => exact .inl ⟨_, rfl, by rw [outWrites_state]; exact ok⟩
  case varDec =>
    obtain ⟨inptr, past, dropped, reads⟩ := varintRead_sticky s
    exact .inl ⟨_, rfl, by rw [reads]; exact ok⟩
  case encInit => exact .inl ⟨_, rfl, coderOk_of_init rfl rfl rfl⟩
  case decInit =>
    obtain ⟨inptr, past, reads⟩ := inReads_sticky 4 (initCoderModel .dec s)
    refine .inl ⟨_, rfl, ?_⟩
    rw [reads]
    exact coderOk_of_init rfl rfl rfl
  case encFlush =>
    refine .inl ⟨_, rfl, ?_⟩
    rw [flushBytes]
    exact coderOk_of_idle rfl (ok.no_query (mode _ rfl))
  case decEnd => exact .inl ⟨_, rfl, coderOk_of_idle rfl rfl⟩
  case acEnc u16 =>
    obtain ⟨-, scale, proper, within⟩ := triple
    obtain ⟨large, inside⟩ := ok.encoder (mode _ rfl)
    obtain ⟨bs, low', range', loop, inside', step⟩ := encStep_spec proper within (scale.trans large) inside
    rw [outWrites_state] at step
    exact .inl ⟨_, step, coderOk_of_settled (ok.no_query (mode _ rfl)) loop.range_large inside'⟩
  case ppmEnc => exact ppmEncCore_outcome ok order0 sound (mode _ rfl) _
  case pixEnc =>
    rw [work]
    split
    · exact ppmEncCore_outcome (s := emptyPacker s) ok order0 sound (mode _ rfl) _
    · exact .inl ⟨_, rfl, ok⟩
  case pixFlush =>
    rw [work]
    split
    · exact .inl ⟨_, rfl, ok⟩
    · exact ppmEncCore_outcome (s := emptyPacker s) ok order0 sound (mode _ rfl) _
  case acDfreq u16 =>
    have dec : s.mode = .dec := mode _ rfl
    have noQuery : s.qpend = false := by simpa [breaksSequence] using sequence
    obtain ⟨positive, scale⟩ := triple
    obtain ⟨large, inside⟩ := ok.settled (by simp [dec]) noQuery
    obtain ⟨f, query, divided, -⟩ := decQuery_spec positive (scale.trans large)
    exact .inl ⟨_, bind_of_ok query _, coderOk_of_query large inside dec rfl rfl positive scale divided⟩
  case acDupd =>
    have pending : s.qpend = true := by simpa [breaksSequence] using sequence
    obtain ⟨proper, within⟩ := triple
    obtain ⟨-, -, cut, fits, inside⟩ := ok.2 pending
    obtain ⟨bs, low', range', loop, inside', update⟩ := decUpdate_spec proper within cut fits inside
    exact .inl ⟨_, bind_of_ok update _, coderOk_of_settled rfl loop.range_large inside'⟩
  case ppmDec =>
    have sequence : s.qpend = false ∧ s.ucnt = 0 := by simpa [breaksSequence] using sequence
    rcases ppmDecCore_outcome ok order0 sound (mode _ rfl) sequence.1 with ⟨sym, u, decodes, after⟩ | divides
    · exact .inl ⟨_, bind_of_ok decodes _, after⟩
    · rw [work, divides]
      exact .inr rfl
  case pixDec =>
    have noQuery : s.qpend = false := by simpa [breaksSequence] using sequence
    rw [work, refillUnpacker]
    split
    · rcases ppmDecCore_outcome ok order0 sound (mode _ rfl) noQuery with ⟨sym, u, decodes, after⟩ | divides
      · rw [decodes]
        exact .inl ⟨_, rfl, after⟩
      · rw [divides]
        exact .inr rfl
    · exact .inl ⟨_, rfl, ok⟩

theorem CoderOk.exec {i : Instr} {t : State} (h : exec i s = .next t) : CoderOk t := by
  rcases exec_next h with ⟨e, rfl⟩ | ⟨checks, u, done, rfl⟩
  · exact ok
  · rcases work_outcome ok order0 sound checks with ⟨v, done', after⟩ | divides
    · obtain rfl : v = u := Except.ok.inj (done'.symm.trans done)
      exact after
    · rw [divides] at done
      cases done

/-- No command is stuck or refused. -/
theorem exec_answers (i : Instr) : ∃ t, exec i s = .next t := by
  rcases checksPass_or_firstFailure i s with checks | ⟨e, fails⟩
  · rw [exec_of_checksPass checks]
    rcases work_outcome ok order0 sound checks with ⟨u, done, -⟩ | divides
    · rw [done]
      exact ⟨_, complete_ok ..⟩
    · rw [divides]
      exact ⟨_, complete_raise ..⟩
  · exact ⟨_, exec_of_firstFailure fails⟩

end

/-! ### The context tables -/

/-- Coding a symbol keeps the tables sound where the context's sum does not wrap (R232 item 2). -/
theorem CodedModel.sound {sym : Byte} {s m : State} (h : CodedModel sym s m) (wf : ContextMem.wf s.tables)
    (tables : ∀ c, TableSound (readTable c s)) (far : (readTable (ctxIndex s) s).sum.toNat < 2 ^ 32 - 2) (c : BitVec 8) :
    TableSound (readTable c m) := by
  by_cases other : c ≠ ctxIndex s
  · rw [h.others wf other]
    exact tables c
  obtain rfl := not_not.mp other
  have context := tables (ctxIndex s)
  rcases h with ⟨nonempty, rfl⟩ | rfl
  · rw [readTable_hitModel wf]
    exact context.updated (by omega) nonempty (by omega) _
  · rw [readTable_novelModel wf]
    split
    · exact context.novel (by omega) (by omega)
    · have grown : (readTable (ctxIndex s) s).escaped.sum.toNat = (readTable (ctxIndex s) s).sum.toNat + 1 :=
        word_add_toNat (k := 1) (by omega)
      exact (context.escaped (by omega)).novel (by omega) (by omega)

theorem tablesOk_of_nil {s : State} (nil : s.tables = []) : TablesOk s := by
  obtain ⟨wf, exact_⟩ := encoderTables_of_nil nil
  refine ⟨wf, fun c => ?_, exact_⟩
  rw [readTable_of_tables_nil nil]
  exact tableExact_empty.sound

theorem TablesOk.exec {i : Instr} {s t : State} (ok : TablesOk s) (far : SumsFarFromWrap s)
    (h : exec i s = .next t) : TablesOk t := by
  obtain ⟨wf, sound, exact_⟩ := id ok
  have encoder : EncoderTables t := EncoderTables.exec ⟨wf, exact_⟩ h
  refine ⟨encoder.1, ?_, encoder.2⟩
  rcases did_of_exec h with ⟨e, rfl⟩ | ⟨⟨-, mode, -⟩, u, did, rfl⟩
  · exact sound
  cases did
  case encInit | decInit => exact (tablesOk_of_nil rfl).2.1
  case ppmEnc model _ | pixEncFull model _ | pixFlushPartial model _ =>
    exact fun c => (model.exact wf (exact_ (mode _ rfl)) c).sound
  case ppmDec model | pixDecRefilled model => exact model.sound wf sound (far (mode _ rfl) _)
  all_goals exact sound

/-! ### All of them -/

/-- Settles O53. -/
theorem resetSatisfiesTheInvariant : Obligations.ResetSatisfiesTheInvariant := by
  refine ⟨⟨coderOk_of_idle rfl rfl, order0Table_ones, tablesOk_of_nil rfl, packerOk_of_empty rfl rfl rfl,
    faultOk_of_zero (by decide) rfl rfl rfl, ?_⟩, fun dec => nomatch dec⟩
  exact ⟨by decide, by decide, fun run => nomatch run⟩

/-- Settles O58: each part by the lemma about it. -/
theorem everyStepKeepsTheInvariant : Obligations.EveryStepKeepsTheInvariant := by
  intro s s' ⟨coder, order0, tables, packer, fault, launch⟩ far h
  obtain ⟨fault', launch'⟩ := everyStepKeepsFaultAndLaunchRegisters s s' fault launch h
  refine ⟨?_, everyStepKeepsOrder0 s s' order0 h, ?_, everyStepKeepsThePacker s s' packer h, fault', launch'⟩
  · cases stepped_of_step h
    case command runs => exact CoderOk.exec (s := dropTurn s) coder order0 (tables.2.1 _) runs
    case resetDone => exact coderOk_of_idle rfl rfl
    all_goals exact coder
  · cases stepped_of_step h
    case command runs => exact TablesOk.exec (s := dropTurn s) tables far runs
    case resetDone => exact tablesOk_of_nil rfl
    all_goals exact tables

/-! ### No step gets stuck -/

/-- A move of the host is made or refused. -/
theorem hostMove_not_fault (m : HostMove) (s : State) (f : Fault) : hostMove m s ≠ .fault f := by
  have load (n : Nat) (t : State) : hostLoad n t s ≠ .fault f := by
    unfold hostLoad
    split_ifs <;> simp
  cases m with
  | loadCmd | loadInput => exact load _ _
  | assertReset | releaseReset => simp [hostMove]
  | start | readWindow | writeWindow =>
    simp only [hostMove]
    split <;> simp

theorem runStep_answers {s : State} (coder : CoderOk s) (order0 : Order0Ok s)
    (sound : TableSound (readTable (ctxIndex s) s)) (inList : s.pc.toNat ≤ s.cmd.length) : ∃ t, runStep s = .next t := by
  by_cases atEnd : s.pc.toNat = s.cmd.length
  · exact ⟨_, runStep_of_end atEnd⟩
  · have fetch : s.cmd[s.pc.toNat]? = some s.cmd[s.pc.toNat] := List.getElem?_eq_getElem (by omega)
    cases decoded : decode s.cmd[s.pc.toNat] with
    | error e => exact ⟨_, runStep_of_decode_error fetch decoded⟩
    | ok i =>
      rw [runStep_of_decode_ok fetch decoded]
      exact exec_answers coder order0 sound i

/-- The block's own step always has a next state. -/
theorem blockStep_answers {s : State} (inv : Inv s) : ∃ t, blockStep s = .next t := by
  obtain ⟨coder, order0, tables, -, -, -, -, inRun⟩ := inv
  unfold blockStep
  split
  · exact ⟨_, rfl⟩
  · cases run : s.rstate with
    | run => exact runStep_answers coder order0 (tables.2.1 _) (inRun run).1
    | ready | done | fault => exact ⟨_, rfl⟩

/-- Settles O59: a step is a move of the host, or `blockStep_answers`. -/
theorem theBlockNeverSticks : Obligations.TheBlockNeverSticks := by
  intro s inv
  have block (noHost : hostTurn s = none) : ∃ t, step s = .next t := by
    rw [step_of_no_hostTurn noHost]
    exact blockStep_answers (s := dropTurn s) inv
  refine ⟨fun f stuck => ?_, fun noHost r refused => ?_⟩
  · cases turn : hostTurn s with
    | some m =>
      rw [step_of_hostTurn turn] at stuck
      exact hostMove_not_fault m _ f stuck
    | none =>
      obtain ⟨t, next⟩ := block turn
      rw [next] at stuck
      cases stuck
  · obtain ⟨t, next⟩ := block noHost
    rw [next] at refused
    cases refused

end Sys2Proof.Machine
end
